-- ==== Sys2Proof/Word.lean ====
section
/-! DEFINITION. The word types of the core (00_scope R4: every value is unsigned, of a stated width). -/

namespace Sys2Proof

/-- One byte: a general register, a timer, a memory cell, `KK` (R10, R16, R18). -/
abbrev Byte := BitVec 8

/-- A 16-bit value: `I`, `PC`, a stack entry, an instruction word (R12, R13, R15, R60). -/
abbrev Word := BitVec 16

/-- A register number `X` or `Y` (00_scope R5, 30_encoding R65): all 16 values are legal. -/
abbrev RegIdx := BitVec 4

/-- A logical key code 0x0 to 0xF (R20, R164). -/
abbrev KeyCode := BitVec 4

/-- A 12-bit immediate address `NNN` (R64). -/
abbrev Addr12 := BitVec 12

/-- One row of the framebuffer: bit `x` is the pixel of column `x` (R19). -/
abbrev PixelRow := BitVec 64

/-- The register number of VF, the flag register (R11). -/
abbrev vf : RegIdx := 0xF#4

end Sys2Proof
end

