-- ==== Sys2Proof/Config.lean ====
section
/-! DEFINITION. What is not state of the core: the parameters (00_scope R2, 10_state R24 (c)), the free
values (R24 (a)) and the host's events (60_exceptions R166). -/

namespace Sys2Proof

/-- The rows of R2 marked "parameter". DESIGN CHOICE (log 1): a field of State carries them, so that every
statement over all states holds for every value of them; no step changes them. -/
structure Params where
  /-- `SPEED`, the step slots of a tick (R160); the rules are written for `SPEED >= 1` (D27) -/
  speed : Nat
  /-- `FONT`, the 80 bytes that Reset puts at 0x000 (R26) -/
  font : Vector Byte 80
  /-- `BULK_INCLUSIVE`, the OPEN parameter of FX55 and FX65 (R124) -/
  bulkInclusive : Bool
  deriving DecidableEq, Repr

/-- The host's answer to draw number `n` (41 R93: "the spec puts the value under no law at all"). A FREE
VALUE: no body, so nothing can evaluate it (log 2). -/
opaque Config.rand (n : Nat) : Byte

/-- The largest image that fits between 0x200 and 0xFFF: `PROG_MAX` (R2, R182). -/
def Config.progMax : Nat := 3584

/-- The four things the host can do to the core (60_exceptions R166). -/
inductive HostEvent where
  /-- `Reset(image)` (70 R180) -/
  | reset (image : List Byte)
  /-- `Tick` (60 R160) -/
  | tick
  /-- `KeyDown(k)` (60 R164) -/
  | keyDown (k : KeyCode)
  /-- `KeyUp(k)` (60 R165) -/
  | keyUp (k : KeyCode)
  deriving DecidableEq, Repr

end Sys2Proof
end

