-- ==== Sys2Proof/Machine/State.lean ====
section
/-! DEFINITION. The state of the core (10_state R10 to R23), its faults and refusals, and the state after reset. -/

namespace Sys2Proof.Machine

/-- `MEM` (R18) as a list of (address, byte) in one canonical form: see `Memory.wf`. -/
abbrev Memory := List Host.Cell

/-- The three faults of 60_exceptions R150. A fault is TAKEN inside the machine (R154, `State.raise`): the
step answers a NEXT state with the fault record written, so no step answers `Outcome.fault` (log 6; safe: every
faulting run is there to be spoken of, in states with `halted = true`). -/
inductive Fault where
  /-- R151: raised by a step whose word matches no row of the opcode table; safe -/
  | invalidOpcode
  /-- R152: raised by CALL (2NNN) when 16 return addresses are stacked; safe -/
  | stackOverflow
  /-- R153: raised by RET (00EE) on an empty stack; safe -/
  | stackUnderflow
  deriving DecidableEq, Repr

/-- Why a step has no meaning. -/
inductive Refusal where
  /-- an arm of `exec` without a meaning; no arm raises it in this model; safe -/
  | notModelled (mnemonic : String)
  /-- 70 R182: the host's `Reset` with an image longer than 3584 bytes, for which the spec defines no reset;
  raised by the delivery of that event (log 20); safe -/
  | imageTooLong (length : Nat)
  deriving DecidableEq, Repr

/-- Everything the spec gives the machine, and, after it, the model's own fields (logs 1 to 5). -/
structure State where
  /-- `V[0]` to `V[15]` (R10); `V[15]` is VF (R11) -/
  v : Vector Byte 16
  /-- `I` (R12) -/
  i : Word
  /-- `PC` (R13) -/
  pc : Word
  /-- `SP`, the number of stack entries in use, 0 to 16 (R14) -/
  sp : Fin 17
  /-- `STACK[0]` to `STACK[15]` (R15) -/
  stack : Vector Word 16
  /-- `DT` (R16) -/
  dt : Byte
  /-- `ST` (R17) -/
  st : Byte
  /-- `MEM` (R18) -/
  mem : Memory
  /-- `FB` (R19): row `y`, bit `x` of it is `FB[y * 64 + x]` -/
  fb : Vector PixelRow 32
  /-- `KEY[0]` to `KEY[15]` (R20), true = pressed -/
  key : Vector Bool 16
  /-- `PAUSED` (R21) -/
  paused : Bool
  /-- `WAIT_REG` (R21) -/
  waitReg : RegIdx
  /-- `HALTED` (R22) -/
  halted : Bool
  /-- `FAULT_CAUSE` (R22, R150) -/
  faultCause : BitVec 2
  /-- `FAULT_PC` (R22) -/
  faultPc : Word
  /-- `FAULT_OP` (R22) -/
  faultOp : Word
  /-- `TONE` (R23) -/
  tone : Bool
  /-- the MODEL's own: the parameters of R2 (log 1) -/
  params : Params
  /-- the MODEL's own: how many answers of `Rand()` were taken (log 2) -/
  draws : Nat
  /-- the MODEL's own: step slots used in the tick that is running, 0 between ticks (log 3) -/
  slot : Nat
  /-- the MODEL's own: `RENDER` strobes fired so far (log 5) -/
  renders : Nat
  /-- the MODEL's own: the host's events not yet delivered, the next one first (log 4) -/
  events : List HostEvent
  deriving DecidableEq, Repr

/-- Right after `Reset` of the empty image with default parameters (R25, R180, R182): `PC = 0x200`, the font
in memory, everything else 0. Memory lists nothing: an unlisted address reads as its reset contents. -/
def State.reset : State where
  v := Vector.replicate 16 0
  i := 0
  pc := 0x200
  sp := 0
  stack := Vector.replicate 16 0
  dt := 0
  st := 0
  mem := []
  fb := Vector.replicate 32 0
  key := Vector.replicate 16 false
  paused := false
  waitReg := 0
  halted := false
  faultCause := 0
  faultPc := 0
  faultOp := 0
  tone := false
  params := defaultParams
  draws := 0
  slot := 0
  renders := 0
  events := []

end Sys2Proof.Machine
end

