-- ==== Sys2Proof/Machine/Ops.lean ====
section
/-! DEFINITION. The named operations over memory, registers, stack, framebuffer, keys and timers; taking a fault;
the host's events on the state. (There is no return from a fault: 60_exceptions R156.) -/

namespace Sys2Proof.Machine

/-! ## Memory (20_memory) -/

/-- `MEM_SIZE` (R2, R40). -/
def memSize : Nat := 4096

/-- What an address reads as that the list does not name: its reset contents, the default font below 0x050 and
0x00 elsewhere (R25, R26, R49; logs 8 and 10). -/
def Memory.unlisted (a : Nat) : Byte := defaultFont.toList.getD a 0

/-- The byte at an address below `memSize`. -/
def Memory.read : Memory → Nat → Byte
  | [], a => Memory.unlisted a
  | c :: m, a => if c.1 = a then c.2 else Memory.read m a

/-- Put a cell before the first one with a larger address. -/
def Memory.insert : Memory → Host.Cell → Memory
  | [], c => [c]
  | d :: m, c => if c.1 < d.1 then c :: d :: m else d :: Memory.insert m c

/-- Store a byte and keep the canonical form: an address that holds its unlisted value is not listed. -/
def Memory.write (m : Memory) (a : Nat) (b : Byte) : Memory :=
  let others := m.filter (fun c => c.1 != a)
  if b = Memory.unlisted a then others else Memory.insert others (a, b)

/-- The canonical form: addresses strictly rising and below 4096, no entry equal to the unlisted value. -/
abbrev Memory.wf (m : Memory) : Prop :=
  m.Pairwise (fun c d => c.1 < d.1) ∧ ∀ c ∈ m, c.1 < memSize ∧ c.2 ≠ Memory.unlisted c.1

/-- `MemRead(addr, 1)` (R41): the address is reduced mod 4096 here (R43). -/
def State.memRead (s : State) (addr : Nat) : Byte := Memory.read s.mem (addr % memSize)

/-- `MemWrite(addr, 1, v)` (R42). -/
def State.memWrite (s : State) (addr : Nat) (b : Byte) : State :=
  { s with mem := Memory.write s.mem (addr % memSize) b }

/-- Bytes stored at rising addresses, each address reduced by itself (R43). -/
def State.memWriteBytes (s : State) (addr : Nat) : List Byte → State
  | [] => s
  | b :: bs => State.memWriteBytes (s.memWrite addr b) (addr + 1) bs

/-- `MemRead(addr, 2)` (R44): big-endian, each byte's address reduced by itself. -/
def State.fetchWord (s : State) (addr : Nat) : Word := s.memRead addr ++ s.memRead (addr + 1)

/-! ## General registers (R10) -/

/-- `V[x]`. -/
def State.reg (s : State) (x : RegIdx) : Byte := s.v[x.toNat]'x.isLt

/-- `V[x] <- b`. -/
def State.setReg (s : State) (x : RegIdx) (b : Byte) : State := { s with v := s.v.set x.toNat b x.isLt }

/-- A flag as the byte VF receives: 1 or 0, never another value (R11, D14). -/
def flagByte (b : Bool) : Byte := if b then 1 else 0

/-! ## Program counter (R13, R80) -/

/-- `PC <- (PC + 2) mod 65536`: the step's own advance (R62), and once more for a taken skip (R80 (c)). -/
def State.advance (s : State) : State := { s with pc := s.pc + 2 }

/-- `if c then PC <- (PC + 2) mod 65536` (R84 to R87, R141, R142). -/
def State.skipIf (s : State) (c : Bool) : State := if c then s.advance else s

/-- `PC <- target`. -/
def State.jump (s : State) (target : Word) : State := { s with pc := target }

/-- `ia`, the address of the instruction being performed: inside an instruction `PC` is `ia + 2` (R62; log 7). -/
def State.ia (s : State) : Word := s.pc - 2

/-! ## Call stack (R14, R15) -/

/-- `STACK[SP] <- w; SP <- SP + 1`, none when 16 entries are in use (R83). -/
def State.push (s : State) (w : Word) : Option State :=
  if h : s.sp.val < 16 then
    some { s with stack := s.stack.set s.sp.val w h, sp := ⟨s.sp.val + 1, by omega⟩ }
  else none

/-- `SP <- SP - 1`, and `STACK[SP]`, none when no entry is in use (R81). The entry stays, dead (R15). -/
def State.pop (s : State) : Option (Word × State) :=
  if h : 0 < s.sp.val then
    some (s.stack[s.sp.val - 1]'(by omega), { s with sp := ⟨s.sp.val - 1, by omega⟩ })
  else none

/-! ## Taking a fault (60_exceptions R150, R154) -/

/-- The numeric cause codes of R150. -/
def Fault.code : Fault → BitVec 2
  | .invalidOpcode => 1
  | .stackOverflow => 2
  | .stackUnderflow => 3

/-- `raise <Fault>(ia, op)` (R154): the fault record is written and nothing else; `PC` keeps the advanced value,
no vector is taken, no mode changes. -/
def State.raise (s : State) (f : Fault) (ia op : Word) : State :=
  { s with halted := true, faultCause := f.code, faultPc := ia, faultOp := op }

/-! ## Framebuffer (44_display R130, R131) -/

/-- The column a coordinate names: `x mod 64`, the floor modulus (R130). -/
def fbCol (x : Int) : Nat := (x % 64).toNat

/-- The row a coordinate names: `y mod 32`, the floor modulus (R130). -/
def fbRow (y : Int) : Nat := (y % 32).toNat

theorem fbRow_lt (y : Int) : fbRow y < 32 := by
  unfold fbRow; omega

/-- The pixel at any coordinates, wrapped before indexing (R130). -/
def State.pixel (s : State) (x y : Int) : Bool := (s.fb[fbRow y]'(fbRow_lt y)).getLsbD (fbCol x)

/-- `FB[j]` for `0 <= j < 2048`, row-major (R19). -/
def State.fbCell (s : State) (j : Nat) : Bool := s.pixel ((j % 64 : Nat) : Int) ((j / 64 : Nat) : Int)

/-- The write of `TogglePixel(x, y)` (R131): the one pixel is inverted. -/
def State.flipPixel (s : State) (x y : Int) : State :=
  { s with fb := s.fb.set (fbRow y) ((s.fb[fbRow y]'(fbRow_lt y)) ^^^ BitVec.twoPow 64 (fbCol x)) (fbRow_lt y) }

/-- `TogglePixel(x, y)` (R131): whether the pixel was set before, and the state with it inverted. -/
def State.togglePixel (s : State) (x y : Int) : Bool × State := (s.pixel x y, s.flipPixel x y)

/-- `for j in 0 .. 2047: FB[j] <- 0` (R132). -/
def State.clearFb (s : State) : State := { s with fb := Vector.replicate 32 0 }

/-! ## The random port (41 R93, 60 R172) -/

/-- `Rand()`: the host's next answer, a free value, and the state that has taken it (log 2). -/
def State.draw (s : State) : Byte × State := (Config.rand s.draws, { s with draws := s.draws + 1 })

/-! ## Keys (R20, R21, R140, R164, R165) -/

/-- `KEY[k]`. -/
def State.keyBit (s : State) (k : KeyCode) : Bool := s.key[k.toNat]'k.isLt

/-- `KEY[k] <- b`. -/
def State.setKey (s : State) (k : KeyCode) (b : Bool) : State := { s with key := s.key.set k.toNat b k.isLt }

/-- `PAUSED <- 1; WAIT_REG <- x` (R143). -/
def State.awaitKey (s : State) (x : RegIdx) : State := { s with paused := true, waitReg := x }

/-- `KeyDown(k)` (R164): the bit is set, and a pending request is answered with the key's code. -/
def State.keyDown (s : State) (k : KeyCode) : State :=
  let t := s.setKey k true
  if t.paused then { t.setReg t.waitReg (k.setWidth 8) with paused := false } else t

/-- `KeyUp(k)` (R165): the bit is cleared and nothing else. -/
def State.keyUp (s : State) (k : KeyCode) : State := s.setKey k false

/-! ## Timers, tone, render (60_exceptions R160 to R163) -/

/-- One timer decrement, floor at 0 (R161). -/
def countDown (t : Byte) : Byte := if t = 0 then 0 else t - 1

/-- The timer decrement of a tick's end, left out while paused (R161). -/
def State.decTimers (s : State) : State :=
  if s.paused then s else { s with dt := countDown s.dt, st := countDown s.st }

/-- `TONE <- 1 if ST != 0 else 0` (R162). -/
def State.refreshTone (s : State) : State := { s with tone := decide (s.st ≠ 0) }

/-- Fire `RENDER` (R163): a strobe without state, which the model counts (log 5). -/
def State.fireRender (s : State) : State := { s with renders := s.renders + 1 }

/-- The model's count of used step slots (log 3). -/
def State.setSlot (s : State) (n : Nat) : State := { s with slot := n }

/-- The end of a tick of a core that is not halted (R160): timers, then tone, then render; the tick is over. -/
def State.endTick (s : State) : State := (s.decTimers.refreshTone.fireRender).setSlot 0

/-! ## Reset (70 R180) -/

/-- `Reset(image)` for an image that fits: every piece of the spec's state gets the value of R25. The model's own
fields stay, but that no tick is running (log 22). -/
def State.resetWith (s : State) (image : List Byte) : State :=
  (({ State.reset with params := s.params, draws := s.draws, renders := s.renders, events := s.events }
    : State).memWriteBytes 0 s.params.font.toList).memWriteBytes 0x200 image

/-! ## Outcomes -/

/-- The three outcomes of this machine's steps. -/
abbrev Result := Host.Outcome State Fault Refusal

/-- Go on with the next state, if there is one. -/
def andThen (o : Result) (f : State → Result) : Result :=
  match o with
  | .next s => f s
  | .fault r => .fault r
  | .refused r => .refused r

end Sys2Proof.Machine
end

