-- ==== Sys2Proof/Machine/Flags.lean ====
section
/-! DEFINITION. Every flag computation. The core's one flag is VF, an ordinary register (10_state R11). -/

namespace Sys2Proof.Machine

/-- The carry out of 8XY4: the true sum exceeds 255 (R105, R110 (c)). -/
def carryOut (a b : Byte) : Bool := decide (255 < a.toNat + b.toNat)

/-- The "borrow" flag of 8XY5 and 8XY7: the minuend is STRICTLY greater (R106, R108, R110 (d)). -/
def strictlyGreater (minuend subtrahend : Byte) : Bool := decide (subtrahend.toNat < minuend.toNat)

/-- Bit 0 before a shift right (R107). -/
def lsbOf (a : Byte) : Bool := a.getLsbD 0

/-- Bit 7 before a shift left (R109). -/
def msbOf (a : Byte) : Bool := a.getLsbD 7

/-- R100 (c), (d): the result to `V[X]`, then the flag to VF; with `X = 0xF` the flag is what remains. -/
def State.setResult (s : State) (x : RegIdx) (r : Byte) (flag : Bool) : State :=
  (s.setReg x r).setReg vf (flagByte flag)

/-- `V[15] <- 0` before a draw (R133). -/
def State.clearCollision (s : State) : State := s.setReg vf 0

/-- `V[15] <- 1` on a collision; never cleared within the draw (R133). -/
def State.noteCollision (s : State) (hit : Bool) : State := if hit then s.setReg vf 1 else s

end Sys2Proof.Machine
end

