-- ==== Sys2Proof/Machine/Alu.lean ====
section
/-! DEFINITION. 42_alu: 8XY0 to 8XY7 and 8XYE. Both sources are read before anything is written (R100 (b)). -/

namespace Sys2Proof.Machine

/-- 8XY0 `LD Vx, Vy` (R101). -/
def execLdReg (x y : RegIdx) (s : State) : Result := .next (s.setReg x (s.reg y))

/-- 8XY1 `OR Vx, Vy` (R102): VF is not written. -/
def execOr (x y : RegIdx) (s : State) : Result := .next (s.setReg x (s.reg x ||| s.reg y))

/-- 8XY2 `AND Vx, Vy` (R103): VF is not written. -/
def execAnd (x y : RegIdx) (s : State) : Result := .next (s.setReg x (s.reg x &&& s.reg y))

/-- 8XY3 `XOR Vx, Vy` (R104): VF is not written. -/
def execXor (x y : RegIdx) (s : State) : Result := .next (s.setReg x (s.reg x ^^^ s.reg y))

/-- 8XY4 `ADD Vx, Vy` (R105). -/
def execAddReg (x y : RegIdx) (s : State) : Result :=
  .next (s.setResult x (s.reg x + s.reg y) (carryOut (s.reg x) (s.reg y)))

/-- 8XY5 `SUB Vx, Vy` (R106). -/
def execSub (x y : RegIdx) (s : State) : Result :=
  .next (s.setResult x (s.reg x - s.reg y) (strictlyGreater (s.reg x) (s.reg y)))

/-- 8XY6 `SHR Vx` (R107): `V[X]` is shifted in place, `Y` is ignored (R74). -/
def execShr (x _y : RegIdx) (s : State) : Result :=
  .next (s.setResult x (s.reg x >>> 1) (lsbOf (s.reg x)))

/-- 8XY7 `SUBN Vx, Vy` (R108). -/
def execSubn (x y : RegIdx) (s : State) : Result :=
  .next (s.setResult x (s.reg y - s.reg x) (strictlyGreater (s.reg y) (s.reg x)))

/-- 8XYE `SHL Vx` (R109): `V[X]` is shifted in place, `Y` is ignored (R74). -/
def execShl (x _y : RegIdx) (s : State) : Result :=
  .next (s.setResult x (s.reg x <<< 1) (msbOf (s.reg x)))

end Sys2Proof.Machine
end

