-- ==== Sys2Proof/Syntax.lean ====
section
/-! DEFINITION. The instruction set: one constructor per row of 30_encoding R66, in the table's order. -/

namespace Sys2Proof

/-- The 34 instruction patterns of R66, operands as R65 and R64 give them. -/
inductive Instr where
  /-- 00E0 `CLS` (R132) -/
  | cls
  /-- 00EE `RET` (R81) -/
  | ret
  /-- 1NNN `JP nnn` (R82) -/
  | jp (nnn : Addr12)
  /-- 2NNN `CALL nnn` (R83) -/
  | call (nnn : Addr12)
  /-- 3XKK `SE Vx, kk` (R84) -/
  | seImm (x : RegIdx) (kk : Byte)
  /-- 4XKK `SNE Vx, kk` (R85) -/
  | sneImm (x : RegIdx) (kk : Byte)
  /-- 5XY0 `SE Vx, Vy` (R86) -/
  | seReg (x y : RegIdx)
  /-- 6XKK `LD Vx, kk` (R90) -/
  | ldImm (x : RegIdx) (kk : Byte)
  /-- 7XKK `ADD Vx, kk` (R91) -/
  | addImm (x : RegIdx) (kk : Byte)
  /-- 8XY0 `LD Vx, Vy` (R101) -/
  | ldReg (x y : RegIdx)
  /-- 8XY1 `OR Vx, Vy` (R102) -/
  | orReg (x y : RegIdx)
  /-- 8XY2 `AND Vx, Vy` (R103) -/
  | andReg (x y : RegIdx)
  /-- 8XY3 `XOR Vx, Vy` (R104) -/
  | xorReg (x y : RegIdx)
  /-- 8XY4 `ADD Vx, Vy` (R105) -/
  | addReg (x y : RegIdx)
  /-- 8XY5 `SUB Vx, Vy` (R106) -/
  | sub (x y : RegIdx)
  /-- 8XY6 `SHR Vx` (R107); `y` is in the word and ignored (R74) -/
  | shr (x y : RegIdx)
  /-- 8XY7 `SUBN Vx, Vy` (R108) -/
  | subn (x y : RegIdx)
  /-- 8XYE `SHL Vx` (R109); `y` is in the word and ignored (R74) -/
  | shl (x y : RegIdx)
  /-- 9XY0 `SNE Vx, Vy` (R87) -/
  | sneReg (x y : RegIdx)
  /-- ANNN `LD I, nnn` (R120) -/
  | ldI (nnn : Addr12)
  /-- BNNN `JP V0, nnn` (R88) -/
  | jpV0 (nnn : Addr12)
  /-- CXKK `RND Vx, kk` (R92) -/
  | rnd (x : RegIdx) (kk : Byte)
  /-- DXYN `DRW Vx, Vy, n` (R133) -/
  | drw (x y : RegIdx) (n : BitVec 4)
  /-- EX9E `SKP Vx` (R141) -/
  | skp (x : RegIdx)
  /-- EXA1 `SKNP Vx` (R142) -/
  | sknp (x : RegIdx)
  /-- FX07 `LD Vx, DT` (R144) -/
  | ldVxDt (x : RegIdx)
  /-- FX0A `LD Vx, K` (R143) -/
  | ldVxK (x : RegIdx)
  /-- FX15 `LD DT, Vx` (R145) -/
  | ldDtVx (x : RegIdx)
  /-- FX18 `LD ST, Vx` (R146) -/
  | ldStVx (x : RegIdx)
  /-- FX1E `ADD I, Vx` (R121) -/
  | addI (x : RegIdx)
  /-- FX29 `LD F, Vx` (R122) -/
  | ldF (x : RegIdx)
  /-- FX33 `LD B, Vx` (R123) -/
  | ldB (x : RegIdx)
  /-- FX55 `LD [I], Vx` (R125) -/
  | ldMemVx (x : RegIdx)
  /-- FX65 `LD Vx, [I]` (R126) -/
  | ldVxMem (x : RegIdx)
  deriving DecidableEq, Repr

end Sys2Proof
end

