-- ==== Sys2Proof/Decode.lean ====
section
/-! DEFINITION. The decoder (30_encoding R63, R66, R68) and, after it, the encoder. -/

namespace Sys2Proof

/-- Why a word is no instruction: the five classes of R68, and too few bytes. -/
inductive Reject where
  /-- R68 (a), R70: `0NNN` other than 00E0 and 00EE -/
  | zeroFamily (op : Word)
  /-- R68 (b), R69: `5XYN` or `9XYN` with `N != 0` -/
  | skipNibble (op : Word)
  /-- R68 (c), R111: `8XYN` with an unknown low nibble -/
  | aluNibble (op : Word)
  /-- R68 (d): `EXKK` with an unknown low byte -/
  | keyByte (op : Word)
  /-- R68 (e): `FXKK` with an unknown low byte -/
  | miscByte (op : Word)
  /-- fewer than two bytes were given; the core never meets this (R43: a fetch never ends) -/
  | truncated
  deriving DecidableEq, Repr

/-! ## Fields (00_scope R5) -/

/-- `op[15:12]`, the top nibble. -/
def topOf (op : Word) : BitVec 4 := op.extractLsb' 12 4
/-- `X = op[11:8]`. -/
def xOf (op : Word) : RegIdx := op.extractLsb' 8 4
/-- `Y = op[7:4]`. -/
def yOf (op : Word) : RegIdx := op.extractLsb' 4 4
/-- `N = op[3:0]`. -/
def nOf (op : Word) : BitVec 4 := op.extractLsb' 0 4
/-- `KK = op[7:0]`. -/
def kkOf (op : Word) : Byte := op.extractLsb' 0 8
/-- `NNN = op[11:0]`. -/
def nnnOf (op : Word) : Addr12 := op.extractLsb' 0 12

/-! ## Decode (R63) -/

/-- Top nibble 0x0: the whole word decides (R63, R70). -/
def decodeZero (op : Word) : Except Reject Instr :=
  if op = 0x00E0#16 then .ok .cls
  else if op = 0x00EE#16 then .ok .ret
  else .error (.zeroFamily op)

/-- Top nibble 0x8: the low nibble decides (R63, R111). -/
def decodeAlu (op : Word) : Except Reject Instr :=
  let x := xOf op
  let y := yOf op
  let n := nOf op
  if n = 0x0#4 then .ok (.ldReg x y)
  else if n = 0x1#4 then .ok (.orReg x y)
  else if n = 0x2#4 then .ok (.andReg x y)
  else if n = 0x3#4 then .ok (.xorReg x y)
  else if n = 0x4#4 then .ok (.addReg x y)
  else if n = 0x5#4 then .ok (.sub x y)
  else if n = 0x6#4 then .ok (.shr x y)
  else if n = 0x7#4 then .ok (.subn x y)
  else if n = 0xE#4 then .ok (.shl x y)
  else .error (.aluNibble op)

/-- Top nibble 0xE: the low byte decides (R63). -/
def decodeKey (op : Word) : Except Reject Instr :=
  let kk := kkOf op
  if kk = 0x9E#8 then .ok (.skp (xOf op))
  else if kk = 0xA1#8 then .ok (.sknp (xOf op))
  else .error (.keyByte op)

/-- Top nibble 0xF: the low byte decides (R63). -/
def decodeMisc (op : Word) : Except Reject Instr :=
  let x := xOf op
  let kk := kkOf op
  if kk = 0x07#8 then .ok (.ldVxDt x)
  else if kk = 0x0A#8 then .ok (.ldVxK x)
  else if kk = 0x15#8 then .ok (.ldDtVx x)
  else if kk = 0x18#8 then .ok (.ldStVx x)
  else if kk = 0x1E#8 then .ok (.addI x)
  else if kk = 0x29#8 then .ok (.ldF x)
  else if kk = 0x33#8 then .ok (.ldB x)
  else if kk = 0x55#8 then .ok (.ldMemVx x)
  else if kk = 0x65#8 then .ok (.ldVxMem x)
  else .error (.miscByte op)

/-- The dispatch of R63 over the top nibble: total on the 65536 words, each decoded or rejected by name. -/
def decodeWord (op : Word) : Except Reject Instr :=
  let t := topOf op
  if t = 0x0#4 then decodeZero op
  else if t = 0x1#4 then .ok (.jp (nnnOf op))
  else if t = 0x2#4 then .ok (.call (nnnOf op))
  else if t = 0x3#4 then .ok (.seImm (xOf op) (kkOf op))
  else if t = 0x4#4 then .ok (.sneImm (xOf op) (kkOf op))
  else if t = 0x5#4 then (if nOf op = 0x0#4 then .ok (.seReg (xOf op) (yOf op)) else .error (.skipNibble op))
  else if t = 0x6#4 then .ok (.ldImm (xOf op) (kkOf op))
  else if t = 0x7#4 then .ok (.addImm (xOf op) (kkOf op))
  else if t = 0x8#4 then decodeAlu op
  else if t = 0x9#4 then (if nOf op = 0x0#4 then .ok (.sneReg (xOf op) (yOf op)) else .error (.skipNibble op))
  else if t = 0xA#4 then .ok (.ldI (nnnOf op))
  else if t = 0xB#4 then .ok (.jpV0 (nnnOf op))
  else if t = 0xC#4 then .ok (.rnd (xOf op) (kkOf op))
  else if t = 0xD#4 then .ok (.drw (xOf op) (yOf op) (nOf op))
  else if t = 0xE#4 then decodeKey op
  else decodeMisc op

/-- The word of two bytes, the first (lower address) the high-order one (20_memory R44, R45). -/
def wordOfBytes (hi lo : Byte) : Word := hi ++ lo

/-- The high-order byte of a word, which stands at the lower address (R44). -/
def highByte (op : Word) : Byte := op.extractLsb' 8 8
/-- The low-order byte of a word, which stands at the next address (R44). -/
def lowByte (op : Word) : Byte := op.extractLsb' 0 8

/-- Decode the instruction at the head of a list of bytes, and give the bytes after it (R60: always two). -/
def decode : List Byte → Except Reject (Instr × List Byte)
  | hi :: lo :: rest =>
    match decodeWord (wordOfBytes hi lo) with
    | .ok i => .ok (i, rest)
    | .error e => .error e
  | _ => .error .truncated

/-- The instruction the decoder reads from a word given as the table numbers its bits. Every instruction is
one 16-bit word, so the bits above `nbits` are 0 and the word is laid out high byte first (R44). -/
def decodeTableWord (nbits w : Nat) : Option Instr :=
  let op : Word := BitVec.ofNat 16 (w % 2 ^ nbits)
  match decode [highByte op, lowByte op] with
  | .ok (i, _) => some i
  | .error _ => none

/-! ## Encode (formats E, A, I, R, S of R61) -/

/-- Format A: opcode, NNN. -/
def fmtA (t : BitVec 4) (nnn : Addr12) : Word := t ++ nnn
/-- Format I: opcode, X, KK; format S has the same fields with a fixed low byte. -/
def fmtI (t : BitVec 4) (x : RegIdx) (kk : Byte) : Word := (t ++ x) ++ kk
/-- Format R: opcode, X, Y, N. -/
def fmtR (t : BitVec 4) (x y : RegIdx) (n : BitVec 4) : Word := (t ++ x) ++ (y ++ n)

/-- The word of an instruction, from the match column of R66 and the formats of R61. -/
def encode : Instr → Word
  | .cls => 0x00E0#16
  | .ret => 0x00EE#16
  | .jp nnn => fmtA 0x1#4 nnn
  | .call nnn => fmtA 0x2#4 nnn
  | .seImm x kk => fmtI 0x3#4 x kk
  | .sneImm x kk => fmtI 0x4#4 x kk
  | .seReg x y => fmtR 0x5#4 x y 0x0#4
  | .ldImm x kk => fmtI 0x6#4 x kk
  | .addImm x kk => fmtI 0x7#4 x kk
  | .ldReg x y => fmtR 0x8#4 x y 0x0#4
  | .orReg x y => fmtR 0x8#4 x y 0x1#4
  | .andReg x y => fmtR 0x8#4 x y 0x2#4
  | .xorReg x y => fmtR 0x8#4 x y 0x3#4
  | .addReg x y => fmtR 0x8#4 x y 0x4#4
  | .sub x y => fmtR 0x8#4 x y 0x5#4
  | .shr x y => fmtR 0x8#4 x y 0x6#4
  | .subn x y => fmtR 0x8#4 x y 0x7#4
  | .shl x y => fmtR 0x8#4 x y 0xE#4
  | .sneReg x y => fmtR 0x9#4 x y 0x0#4
  | .ldI nnn => fmtA 0xA#4 nnn
  | .jpV0 nnn => fmtA 0xB#4 nnn
  | .rnd x kk => fmtI 0xC#4 x kk
  | .drw x y n => fmtR 0xD#4 x y n
  | .skp x => fmtI 0xE#4 x 0x9E#8
  | .sknp x => fmtI 0xE#4 x 0xA1#8
  | .ldVxDt x => fmtI 0xF#4 x 0x07#8
  | .ldVxK x => fmtI 0xF#4 x 0x0A#8
  | .ldDtVx x => fmtI 0xF#4 x 0x15#8
  | .ldStVx x => fmtI 0xF#4 x 0x18#8
  | .addI x => fmtI 0xF#4 x 0x1E#8
  | .ldF x => fmtI 0xF#4 x 0x29#8
  | .ldB x => fmtI 0xF#4 x 0x33#8
  | .ldMemVx x => fmtI 0xF#4 x 0x55#8
  | .ldVxMem x => fmtI 0xF#4 x 0x65#8

/-- The two bytes of an instruction as they stand in memory, lowest address first (R44). -/
def encodeBytes (i : Instr) : List Byte := [highByte (encode i), lowByte (encode i)]

/-! ## The opcode table (R66), for statements about the decoder -/

/-- One row of R66: the word `op` selects it when `op AND mask = match`. -/
structure OpcodeRow where
  mnemonic : String
  matchBits : Word
  mask : Word
  deriving DecidableEq, Repr

/-- `op AND mask = match` (R66). -/
def OpcodeRow.selects (r : OpcodeRow) (op : Word) : Bool := decide (op &&& r.mask = r.matchBits)

/-- The row of R66 that an instruction belongs to. -/
def rowOf : Instr → OpcodeRow
  | .cls => ⟨"CLS", 0x00E0#16, 0xFFFF#16⟩
  | .ret => ⟨"RET", 0x00EE#16, 0xFFFF#16⟩
  | .jp _ => ⟨"JP", 0x1000#16, 0xF000#16⟩
  | .call _ => ⟨"CALL", 0x2000#16, 0xF000#16⟩
  | .seImm _ _ => ⟨"SE_IMM", 0x3000#16, 0xF000#16⟩
  | .sneImm _ _ => ⟨"SNE_IMM", 0x4000#16, 0xF000#16⟩
  | .seReg _ _ => ⟨"SE_REG", 0x5000#16, 0xF00F#16⟩
  | .ldImm _ _ => ⟨"LD_IMM", 0x6000#16, 0xF000#16⟩
  | .addImm _ _ => ⟨"ADD_IMM", 0x7000#16, 0xF000#16⟩
  | .ldReg _ _ => ⟨"LD_REG", 0x8000#16, 0xF00F#16⟩
  | .orReg _ _ => ⟨"OR", 0x8001#16, 0xF00F#16⟩
  | .andReg _ _ => ⟨"AND", 0x8002#16, 0xF00F#16⟩
  | .xorReg _ _ => ⟨"XOR", 0x8003#16, 0xF00F#16⟩
  | .addReg _ _ => ⟨"ADD_REG", 0x8004#16, 0xF00F#16⟩
  | .sub _ _ => ⟨"SUB", 0x8005#16, 0xF00F#16⟩
  | .shr _ _ => ⟨"SHR", 0x8006#16, 0xF00F#16⟩
  | .subn _ _ => ⟨"SUBN", 0x8007#16, 0xF00F#16⟩
  | .shl _ _ => ⟨"SHL", 0x800E#16, 0xF00F#16⟩
  | .sneReg _ _ => ⟨"SNE_REG", 0x9000#16, 0xF00F#16⟩
  | .ldI _ => ⟨"LD_I", 0xA000#16, 0xF000#16⟩
  | .jpV0 _ => ⟨"JP_V0", 0xB000#16, 0xF000#16⟩
  | .rnd _ _ => ⟨"RND", 0xC000#16, 0xF000#16⟩
  | .drw _ _ _ => ⟨"DRW", 0xD000#16, 0xF000#16⟩
  | .skp _ => ⟨"SKP", 0xE09E#16, 0xF0FF#16⟩
  | .sknp _ => ⟨"SKNP", 0xE0A1#16, 0xF0FF#16⟩
  | .ldVxDt _ => ⟨"LD_VX_DT", 0xF007#16, 0xF0FF#16⟩
  | .ldVxK _ => ⟨"LD_VX_K", 0xF00A#16, 0xF0FF#16⟩
  | .ldDtVx _ => ⟨"LD_DT_VX", 0xF015#16, 0xF0FF#16⟩
  | .ldStVx _ => ⟨"LD_ST_VX", 0xF018#16, 0xF0FF#16⟩
  | .addI _ => ⟨"ADD_I", 0xF01E#16, 0xF0FF#16⟩
  | .ldF _ => ⟨"LD_F", 0xF029#16, 0xF0FF#16⟩
  | .ldB _ => ⟨"LD_B", 0xF033#16, 0xF0FF#16⟩
  | .ldMemVx _ => ⟨"LD_MEM_VX", 0xF055#16, 0xF0FF#16⟩
  | .ldVxMem _ => ⟨"LD_VX_MEM", 0xF065#16, 0xF0FF#16⟩

/-- One instruction of each constructor, its operands 0, in the order of R66. -/
def samples : List Instr :=
  [.cls, .ret, .jp 0, .call 0, .seImm 0 0, .sneImm 0 0, .seReg 0 0, .ldImm 0 0, .addImm 0 0,
   .ldReg 0 0, .orReg 0 0, .andReg 0 0, .xorReg 0 0, .addReg 0 0, .sub 0 0, .shr 0 0, .subn 0 0, .shl 0 0] ++
  [.sneReg 0 0, .ldI 0, .jpV0 0, .rnd 0 0, .drw 0 0 0, .skp 0, .sknp 0, .ldVxDt 0, .ldVxK 0, .ldDtVx 0,
   .ldStVx 0, .addI 0, .ldF 0, .ldB 0, .ldMemVx 0, .ldVxMem 0]

/-- The table of R66: 34 rows. -/
def opcodeTable : List OpcodeRow := samples.map rowOf

end Sys2Proof
end

