-- ==== Sys2Proof/Machine/Operands.lean ====
section
/-! DEFINITION. Every operand form: immediates, the address of a memory byte, the registers of a bulk copy, the glyph
address, the decimal digits, the key a register names, the bits of a sprite row. -/

namespace Sys2Proof.Machine

/-- `zext_16(NNN)` (R64). -/
def zext12 (nnn : Addr12) : Word := nnn.setWidth 16

/-- `zext_16` of a byte (R88, R121, R122). -/
def zext8 (b : Byte) : Word := b.setWidth 16

/-- The address of byte `k` of an access through `I`: the unreduced sum `I + k` (R127); `memRead` and `memWrite`
reduce it mod 4096 (R43). -/
def State.effAddr (s : State) (k : Nat) : Nat := s.i.toNat + k

/-- `BULK_COUNT(X)`, how many registers FX55 and FX65 move (R124). -/
def State.bulkCount (s : State) (x : RegIdx) : Nat :=
  if s.params.bulkInclusive then x.toNat + 1 else x.toNat

/-- The `k`-th register of a bulk copy (R125, R126): `V[k]`. -/
def bulkReg (k : Nat) : RegIdx := BitVec.ofNat 4 k

/-- `zext_16(V[X]) * 5`: the glyph address, on all 8 bits (R122). -/
def glyphAddr (b : Byte) : Word := zext8 b * 5

/-- `v div 100` (R123). -/
def hundreds (b : Byte) : Byte := BitVec.ofNat 8 (b.toNat / 100)
/-- `(v div 10) mod 10` (R123). -/
def tens (b : Byte) : Byte := BitVec.ofNat 8 (b.toNat / 10 % 10)
/-- `v mod 10` (R123). -/
def ones (b : Byte) : Byte := BitVec.ofNat 8 (b.toNat % 10)

/-- The key a register value names: its low four bits, `V[X][3:0]` (R140). -/
def keySelect (b : Byte) : KeyCode := b.extractLsb' 0 4

/-- The bit of a sprite row for column `c`, 0 to 7: bit `7 - c`, so bit 7 is the leftmost pixel (R133). -/
def spriteBit (b : Byte) (c : Nat) : Bool := b.getLsbD (7 - c)

end Sys2Proof.Machine
end

