-- ==== Sys2Proof/Machine/Control.lean ====
section
/-! DEFINITION. 40_control_transfer: 00EE, 1NNN, 2NNN, 3XKK, 4XKK, 5XY0, 9XY0, BNNN. On entry `PC` is `ia + 2` (R62). -/

namespace Sys2Proof.Machine

/-- 00EE `RET` (R81): `StackUnderflow` on an empty stack, taken as R154 says. -/
def execRet (s : State) : Result :=
  match s.pop with
  | none => .next (s.raise .stackUnderflow s.ia (encode .ret))
  | some (target, t) => .next (t.jump target)

/-- 1NNN `JP nnn` (R82). -/
def execJp (nnn : Addr12) (s : State) : Result := .next (s.jump (zext12 nnn))

/-- 2NNN `CALL nnn` (R83): pushes the advanced PC; `StackOverflow` when 16 entries are in use. -/
def execCall (nnn : Addr12) (s : State) : Result :=
  match s.push s.pc with
  | none => .next (s.raise .stackOverflow s.ia (encode (.call nnn)))
  | some t => .next (t.jump (zext12 nnn))

/-- 3XKK `SE Vx, kk` (R84). -/
def execSeImm (x : RegIdx) (kk : Byte) (s : State) : Result := .next (s.skipIf (decide (s.reg x = kk)))

/-- 4XKK `SNE Vx, kk` (R85). -/
def execSneImm (x : RegIdx) (kk : Byte) (s : State) : Result := .next (s.skipIf (decide (s.reg x ≠ kk)))

/-- 5XY0 `SE Vx, Vy` (R86). -/
def execSeReg (x y : RegIdx) (s : State) : Result := .next (s.skipIf (decide (s.reg x = s.reg y)))

/-- 9XY0 `SNE Vx, Vy` (R87). -/
def execSneReg (x y : RegIdx) (s : State) : Result := .next (s.skipIf (decide (s.reg x ≠ s.reg y)))

/-- BNNN `JP V0, nnn` (R88): the sum is not reduced to 12 bits. -/
def execJpV0 (nnn : Addr12) (s : State) : Result := .next (s.jump (zext12 nnn + zext8 (s.reg 0)))

end Sys2Proof.Machine
end

