-- ==== Sys2Proof/Machine/Display.lean ====
section
/-! DEFINITION. 44_display: 00E0 and DXYN. -/

namespace Sys2Proof.Machine

/-- 00E0 `CLS` (R132). -/
def execCls (s : State) : Result := .next s.clearFb

/-- One column of one sprite row (R133): a 1 bit toggles its pixel and notes a collision, a 0 bit does nothing. -/
def drawPixel (x0 y : Nat) (b : Byte) (s : State) (c : Nat) : State :=
  if spriteBit b c then
    let r := s.togglePixel ((x0 + c : Nat) : Int) (y : Int)
    r.2.noteCollision r.1
  else s

/-- One sprite row (R133): the byte at `I + r`, columns 0 to 7, on row `y0 + r`. -/
def drawRow (x0 y0 : Nat) (s : State) (r : Nat) : State :=
  (List.range 8).foldl (drawPixel x0 (y0 + r) (s.memRead (s.effAddr r))) s

/-- DXYN `DRW Vx, Vy, n` (R133): both coordinates are read before VF is cleared. -/
def execDrw (x y : RegIdx) (n : BitVec 4) (s : State) : Result :=
  .next ((List.range n.toNat).foldl (drawRow (s.reg x).toNat (s.reg y).toNat) s.clearCollision)

end Sys2Proof.Machine
end

