-- ==== Sys2Proof/Machine/Immediate.lean ====
section
/-! DEFINITION. 41_immediate_and_random: 6XKK, 7XKK, CXKK. -/

namespace Sys2Proof.Machine

/-- 6XKK `LD Vx, kk` (R90). -/
def execLdImm (x : RegIdx) (kk : Byte) (s : State) : Result := .next (s.setReg x kk)

/-- 7XKK `ADD Vx, kk` (R91): mod 256, no flag. -/
def execAddImm (x : RegIdx) (kk : Byte) (s : State) : Result := .next (s.setReg x (s.reg x + kk))

/-- CXKK `RND Vx, kk` (R92): exactly one draw is taken, also when `kk = 0`. -/
def execRnd (x : RegIdx) (kk : Byte) (s : State) : Result :=
  let d := s.draw
  .next (d.2.setReg x (d.1 &&& kk))

end Sys2Proof.Machine
end

