-- ==== Sys2Proof/Machine/Index.lean ====
section
/-! DEFINITION. 43_index_and_memory: ANNN, FX1E, FX29, FX33, FX55, FX65. Only the first three write `I` (R127). -/

namespace Sys2Proof.Machine

/-- `I <- w`. -/
def State.setI (s : State) (w : Word) : State := { s with i := w }

/-- ANNN `LD I, nnn` (R120). -/
def execLdI (nnn : Addr12) (s : State) : Result := .next (s.setI (zext12 nnn))

/-- FX1E `ADD I, Vx` (R121): mod 65536, VF is not written. -/
def execAddI (x : RegIdx) (s : State) : Result := .next (s.setI (s.i + zext8 (s.reg x)))

/-- FX29 `LD F, Vx` (R122): all 8 bits of `V[X]`. -/
def execLdF (x : RegIdx) (s : State) : Result := .next (s.setI (glyphAddr (s.reg x)))

/-- FX33 `LD B, Vx` (R123): hundreds, tens, ones at `I`, `I + 1`, `I + 2`, in that order. -/
def execLdB (x : RegIdx) (s : State) : Result :=
  .next (s.memWriteBytes (s.effAddr 0) [hundreds (s.reg x), tens (s.reg x), ones (s.reg x)])

/-- One byte of FX55: `MemWrite(I + k, 1, V[k])` (R125). -/
def storeBulk (s : State) (k : Nat) : State := s.memWrite (s.effAddr k) (s.reg (bulkReg k))

/-- FX55 `LD [I], Vx` (R125): ascending `k`, `BULK_COUNT(X)` bytes (R124). -/
def execLdMemVx (x : RegIdx) (s : State) : Result :=
  .next ((List.range (s.bulkCount x)).foldl storeBulk s)

/-- One byte of FX65: `V[k] <- MemRead(I + k, 1)` (R126). -/
def loadBulk (s : State) (k : Nat) : State := s.setReg (bulkReg k) (s.memRead (s.effAddr k))

/-- FX65 `LD Vx, [I]` (R126): ascending `k`, `BULK_COUNT(X)` bytes (R124). -/
def execLdVxMem (x : RegIdx) (s : State) : Result :=
  .next ((List.range (s.bulkCount x)).foldl loadBulk s)

end Sys2Proof.Machine
end

