-- ==== Sys2Proof/Machine/Keys.lean ====
section
/-! DEFINITION. 45_keys_and_timers: EX9E, EXA1, FX07, FX0A, FX15, FX18. -/

namespace Sys2Proof.Machine

/-- EX9E `SKP Vx` (R141). -/
def execSkp (x : RegIdx) (s : State) : Result := .next (s.skipIf (s.keyBit (keySelect (s.reg x))))

/-- EXA1 `SKNP Vx` (R142). -/
def execSknp (x : RegIdx) (s : State) : Result := .next (s.skipIf (!s.keyBit (keySelect (s.reg x))))

/-- FX07 `LD Vx, DT` (R144). -/
def execLdVxDt (x : RegIdx) (s : State) : Result := .next (s.setReg x s.dt)

/-- FX0A `LD Vx, K` (R143): only the request; `KeyDown` writes `V[X]` later (R164). -/
def execLdVxK (x : RegIdx) (s : State) : Result := .next (s.awaitKey x)

/-- FX15 `LD DT, Vx` (R145). -/
def execLdDtVx (x : RegIdx) (s : State) : Result := .next { s with dt := s.reg x }

/-- FX18 `LD ST, Vx` (R146): `TONE` is not touched. -/
def execLdStVx (x : RegIdx) (s : State) : Result := .next { s with st := s.reg x }

end Sys2Proof.Machine
end

