-- ==== Sys2Proof/Machine/Events.lean ====
section
/-! DEFINITION. Fetch and execute (30_encoding R62, R63), the tick (60_exceptions R160) and the host's events (R166). -/

namespace Sys2Proof.Machine

/-- `Execute(op, ia)` (R63): one of the 34 meanings, or `InvalidOpcode` (R151). `PC` is already advanced. -/
def execute (op ia : Word) (s : State) : Result :=
  match decodeWord op with
  | .ok i => exec i s
  | .error _ => .next (s.raise .invalidOpcode ia op)

/-- `Step()` (R62), of a core that is neither halted nor paused: fetch, advance `PC`, execute. -/
def stepOnce (s : State) : Result := execute (s.fetchWord s.pc.toNat) s.pc s.advance

/-! ## The whole tick, as R160 writes it -/

/-- `n` step slots, pause and halt tested before each (R160). -/
def runSlots : Nat → State → Result
  | 0, s => .next s
  | n + 1, s =>
    if !s.paused && !s.halted then andThen (stepOnce s) (runSlots n) else runSlots n s

/-- `Tick()` (R160) as one event. -/
def tick (s : State) : Result :=
  if s.halted then .next s
  else andThen (runSlots s.params.speed s) fun t =>
    if t.halted then .next t else .next t.endTick

/-! ## The tick, one slot at a time (log 3) -/

/-- After an instruction: a fault ends the tick at once (R155, R160); a pause, or the last of the `SPEED` slots,
brings the end of the tick; else one more slot is used. -/
def afterSlot (s : State) : State :=
  if s.halted then s.setSlot 0
  else if s.paused || decide (s.params.speed ≤ s.slot + 1) then s.endTick
  else s.setSlot (s.slot + 1)

/-- The next move of a tick: a halted core does nothing (R155), a paused one ends its tick without a step (R168),
a running one performs one instruction. -/
def tickSlot (s : State) : Result :=
  if s.halted then .next (s.setSlot 0)
  else if s.paused then .next s.endTick
  else andThen (stepOnce s) fun t => .next (afterSlot t)

/-- `Reset(image)` (70 R180); an image longer than 3584 bytes is refused (R182, log 20). -/
def resetEvent (s : State) (image : List Byte) : Result :=
  if image.length ≤ Config.progMax then .next (s.resetWith image)
  else .refused (.imageTooLong image.length)

/-- One host event, taken between ticks (R166). `Tick` begins a tick. -/
def deliver (e : HostEvent) (s : State) : Result :=
  match e with
  | .reset image => resetEvent s image
  | .tick => tickSlot s
  | .keyDown k => .next (s.keyDown k)
  | .keyUp k => .next (s.keyUp k)

/-- The host's next event: between ticks the head of `events`, and a `Tick` where none is listed (log 4). -/
def nextEvent (s : State) : Result :=
  match s.events with
  | [] => deliver .tick s
  | e :: es => deliver e { s with events := es }

/-- One move of the machine: inside a tick its next slot, between ticks the host's next event. -/
def move (s : State) : Result := if s.slot = 0 then nextEvent s else tickSlot s

/-- The same state made ready to run an instruction at once: not halted (with the fault record's cause as R22 has it
then), not paused, no host event ahead of the tick (log 21). -/
def State.ready (s : State) : State :=
  { s with halted := false, faultCause := 0, paused := false, events := [] }

/-- A word stored where the next fetch reads it, high byte first (R44). -/
def State.placeWord (s : State) (op : Word) : State :=
  s.memWriteBytes s.pc.toNat [highByte op, lowByte op]

end Sys2Proof.Machine
end

