-- ==== Sys2Proof/Machine/Step.lean ====
section
/-! DEFINITION. The step of the machine, and the state whose next step runs a given word. -/

namespace Sys2Proof.Machine

/-- One step: one instruction of a tick with whatever ends the tick after it, or one host event (logs 3, 4). -/
def step (s : State) : Host.Outcome State Fault Refusal := move s

/-- The word `w` (its bits above `nbits` are 0) where the next step fetches, and the state ready to run it. -/
def State.withFetchWord (s : State) (nbits w : Nat) : State :=
  s.ready.placeWord (BitVec.ofNat 16 (w % 2 ^ nbits))

end Sys2Proof.Machine
end

