-- ==== Sys2Proof/Safety.lean ====
section
/-! DEFINITION. The terms claims use: the parts of the state and what stays the same, the invariant, when the next step
performs an instruction, what a draw covers, what counts as a safe run. -/

namespace Sys2Proof.Machine

/-! ## Frames -/

/-- Every part of the state a claim can speak of. -/
inductive Part where
  /-- `V[x]` -/
  | reg (x : RegIdx)
  /-- `I` -/
  | idx
  /-- `PC` -/
  | pc
  /-- `SP` -/
  | sp
  /-- `STACK[j]` -/
  | stackAt (j : Fin 16)
  /-- `DT` -/
  | dt
  /-- `ST` -/
  | st
  /-- `MEM[a]`, read through the model's read of one byte -/
  | byteAt (a : Addr12)
  /-- the pixel of column `x`, row `y` -/
  | pixelAt (x : BitVec 6) (y : BitVec 5)
  /-- `KEY[k]` -/
  | keyAt (k : KeyCode)
  /-- `PAUSED` -/
  | paused
  /-- `WAIT_REG` -/
  | waitReg
  /-- `HALTED` -/
  | halted
  /-- `FAULT_CAUSE` -/
  | faultCause
  /-- `FAULT_PC` -/
  | faultPc
  /-- `FAULT_OP` -/
  | faultOp
  /-- `TONE` -/
  | tone
  /-- the parameters (log 1) -/
  | params
  /-- the count of draws (log 2) -/
  | draws
  /-- the count of used step slots (log 3) -/
  | slot
  /-- the count of `RENDER` strobes (log 5) -/
  | renders
  /-- the host events not yet delivered (log 4) -/
  | events
  deriving DecidableEq, Repr

/-- A part of the state has the same value in both states. -/
def Part.same (p : Part) (s t : State) : Prop :=
  match p with
  | .reg x => t.reg x = s.reg x
  | .idx => t.i = s.i
  | .pc => t.pc = s.pc
  | .sp => t.sp = s.sp
  | .stackAt j => t.stack[j.val] = s.stack[j.val]
  | .dt => t.dt = s.dt
  | .st => t.st = s.st
  | .byteAt a => t.memRead a.toNat = s.memRead a.toNat
  | .pixelAt x y => t.pixel (x.toNat : Int) (y.toNat : Int) = s.pixel (x.toNat : Int) (y.toNat : Int)
  | .keyAt k => t.keyBit k = s.keyBit k
  | .paused => t.paused = s.paused
  | .waitReg => t.waitReg = s.waitReg
  | .halted => t.halted = s.halted
  | .faultCause => t.faultCause = s.faultCause
  | .faultPc => t.faultPc = s.faultPc
  | .faultOp => t.faultOp = s.faultOp
  | .tone => t.tone = s.tone
  | .params => t.params = s.params
  | .draws => t.draws = s.draws
  | .slot => t.slot = s.slot
  | .renders => t.renders = s.renders
  | .events => t.events = s.events

/-- Every part of the state but the ones named is unchanged. -/
def Frame (changed : Part → Prop) (s t : State) : Prop := ∀ p, ¬ changed p → p.same s t

/-- The parts the fault entry writes (R154). -/
def Part.ofFaultRecord (p : Part) : Prop := p = .halted ∨ p = .faultCause ∨ p = .faultPc ∨ p = .faultOp

/-- The fault record of `raise f` (R150, R154), and nothing else but it changed. -/
def Faulted (f : Fault) (ia op : Word) (s t : State) : Prop :=
  t.halted = true ∧ t.faultCause = f.code ∧ t.faultPc = ia ∧ t.faultOp = op ∧ Frame Part.ofFaultRecord s t

/-- The memory cell that byte `k` of an access through `I` names (R127, R43). -/
def State.cellAt (s : State) (k : Nat) : Addr12 := BitVec.ofNat 12 (s.effAddr k)

/-! ## The invariant -/

/-- What every step keeps: memory in canonical form; `FAULT_CAUSE = 0` exactly when not halted (R27 (c)); a halted
core is not paused (R27 (d)); a tick uses fewer slots than it has until it ends, and a fault ends it (log 3).
`0 <= SP <= 16` (R27 (a)) and the widths (R27 (b)) hold by the types of the fields. -/
abbrev Inv (s : State) : Prop :=
  Memory.wf s.mem ∧ (s.faultCause = 0 ↔ s.halted = false) ∧ (s.halted = true → s.paused = false) ∧
    s.slot < s.params.speed ∧ (s.halted = true → s.slot = 0)

/-- A safe state: not halted. R155: a halted state is a fault state, never a final state, and every claim about a
program takes `HALTED = 0` as premise or conclusion. -/
abbrev Safe (s : State) : Prop := s.halted = false

/-! ## When a step performs an instruction -/

/-- Between ticks with a host event other than `Tick` next, the step delivers that event; at every other state the
step is a move of the tick. -/
abbrev TickNext (s : State) : Prop := s.slot ≠ 0 ∨ s.events = [] ∨ s.events.head? = some .tick

/-- The next step performs an instruction: a slot of a tick comes next, and the core is neither halted nor paused. -/
abbrev Running (s : State) : Prop := TickNext s ∧ s.halted = false ∧ s.paused = false

/-- The state inside the tick: a listed `Tick` that begins now is taken off the list. -/
def State.inTick (s : State) : State := if s.slot = 0 then { s with events := s.events.tail } else s

/-! ## Draws -/

/-- A 1 bit of the sprite of `DXYN` lands on this pixel (R133): row `r` of the sprite, column `c` of the row. -/
def Covers (s : State) (x y : RegIdx) (n : BitVec 4) (col row : Nat) : Prop :=
  ∃ r, r < n.toNat ∧ ∃ c, c < 8 ∧ spriteBit (s.memRead (s.effAddr r)) c = true ∧
    ((s.reg x).toNat + c) % 64 = col ∧ ((s.reg y).toNat + r) % 32 = row

end Sys2Proof.Machine
end

