-- ==== Sys2Proof/Certificates/Slice0/Obligations.lean ====
section
/-! DEFINITION. The statements for the provers, from the numbered rules of spec/. In `exec i s` the state `s` is the one the
step hands to the instruction: its `pc` is the advanced one, `ia + 2` (30_encoding R62). -/

open Sys2Proof Sys2Proof.Machine

/-! ## Encoding -/

/-- Words written out from the encodings of R66 decode to the instructions they stand for (30_encoding R61, R63, R66;
the bytes 60 0A and 00 E0 are CH8's own examples,
95 S7 and S8; that the last two words are invalid is decision D10). -/
def Obligations.SampleWordsDecode : Prop :=
  decode [0x00, 0xE0] = .ok (.cls, []) ∧ decode [0x60, 0x0A, 0x61] = .ok (.ldImm 0 0x0A, [0x61]) ∧
  decode [0x22, 0x0C] = .ok (.call 0x20C, []) ∧ decode [0x80, 0x14] = .ok (.addReg 0 1, []) ∧
  decode [0xA3, 0x00] = .ok (.ldI 0x300, []) ∧ decode [0xD0, 0x12] = .ok (.drw 0 1 2, []) ∧
  decode [0xE2, 0x9E] = .ok (.skp 2, []) ∧ decode [0xF2, 0x65] = .ok (.ldVxMem 2, []) ∧
  decode [0x51, 0x21] = .error (.skipNibble 0x5121) ∧ decode [0x00, 0x00] = .error (.zeroFamily 0)

/-- Decoding the bytes of any instruction gives it back and leaves the bytes after it (R60, R61, R65, R66). -/
def Obligations.DecodeOfEncode : Prop :=
  ∀ (i : Instr) (rest : List Byte), decode (encodeBytes i ++ rest) = .ok (i, rest)

/-- A word that decodes is the word of the instruction it decodes to: the decoder drops no bit (R61, R65, R74). -/
def Obligations.EncodeOfDecode : Prop :=
  ∀ (op : Word) (i : Instr), decodeWord op = .ok i → encode i = op

/-- A word is an instruction exactly when it selects a row of R66, that row is the instruction's own, and no word
selects two rows (R63, R66, R68; that every other word is invalid is decision D10). -/
def Obligations.DecoderAgreesWithTheTable : Prop :=
  (∀ (op : Word) (i : Instr), decodeWord op = .ok i →
    ∀ r ∈ opcodeTable, (r.selects op = true ↔ r = rowOf i)) ∧
  (∀ (op : Word) (e : Reject), decodeWord op = .error e → ∀ r ∈ opcodeTable, r.selects op = false) ∧
  opcodeTable.length = 34

/-! ## The step -/

/-- When a step performs an instruction and the word at the PC decodes to `i`, the step is `exec i` on the state
with the PC advanced, and then whatever ends the tick (R62, R63; `afterSlot`: the model's step, log 3). -/
def Obligations.StepRunsTheDecodedInstruction : Prop :=
  ∀ (s : State) (i : Instr), Running s → decodeWord (s.fetchWord s.pc.toNat) = .ok i →
    step s = andThen (exec i s.inTick.advance) (fun t => .next (afterSlot t))

/-- What follows the instruction in its step (60 R160 to R163, with the model's slot count, log 3): after a fault
nothing; after an FX0A the tick's end without a timer decrement; before the last slot nothing; after it the
timers (floor 0), then the tone, then RENDER (decisions D26, D28; SPEED: D27). -/
def Obligations.TickEndsAfterItsLastSlot : Prop :=
  ∀ (s t : State) (i : Instr), Running s → decodeWord (s.fetchWord s.pc.toNat) = .ok i →
    exec i s.inTick.advance = .next t →
    ∃ u, step s = .next u ∧
      (t.halted = true → u.slot = 0 ∧ Frame (fun p => p = .slot) t u) ∧
      (t.halted = false → t.paused = true →
        u.slot = 0 ∧ u.tone = decide (t.st ≠ 0) ∧ u.renders = t.renders + 1 ∧
        Frame (fun p => p = .slot ∨ p = .tone ∨ p = .renders) t u) ∧
      (t.halted = false → t.paused = false → t.slot + 1 < t.params.speed →
        u.slot = t.slot + 1 ∧ Frame (fun p => p = .slot) t u) ∧
      (t.halted = false → t.paused = false → t.params.speed ≤ t.slot + 1 →
        u.slot = 0 ∧ u.dt.toNat = t.dt.toNat - 1 ∧ u.st.toNat = t.st.toNat - 1 ∧
        u.tone = decide (u.st ≠ 0) ∧ u.renders = t.renders + 1 ∧
        Frame (fun p => p = .slot ∨ p = .dt ∨ p = .st ∨ p = .tone ∨ p = .renders) t u)

/-- The step of a running core whose word selects no row of R66 takes `InvalidOpcode`: cause 1, the address and the
word recorded, the PC advanced, nothing else (R68, R151, R154; decisions D10, D24, D25; a next state: log 6). -/
def Obligations.InvalidWordTakesInvalidOpcode : Prop :=
  ∀ s : State, Running s → (∀ r ∈ opcodeTable, r.selects (s.fetchWord s.pc.toNat) = false) →
    ∃ t, step s = .next t ∧ t.halted = true ∧ t.faultCause = 1 ∧ t.faultPc = s.pc ∧
      t.faultOp = s.fetchWord s.pc.toNat ∧ t.pc = s.pc + 2 ∧ t.slot = 0 ∧
      Frame (fun p => p.ofFaultRecord ∨ p = .pc ∨ p = .slot ∨ p = .events) s t

/-- The word that `withFetchWord` places is what the next step fetches, and the next step performs it (the host's
question of the model; R44; log 21). -/
def Obligations.PlacedWordIsTheNextInstruction : Prop :=
  ∀ (s : State) (w : Nat), w < 65536 →
    Running (s.withFetchWord 16 w) ∧
    (s.withFetchWord 16 w).fetchWord (s.withFetchWord 16 w).pc.toNat = BitVec.ofNat 16 w ∧
    (∀ i, decodeTableWord 16 w = some i ↔ decodeWord (BitVec.ofNat 16 w) = .ok i)

/-- A move of a paused core's tick performs no instruction: the timers stand still, the tone follows ST, RENDER
fires, the tick is over (60 R160, R162, R163, R168; decisions D26, D28). -/
def Obligations.PausedTickOnlyRefreshesTheTone : Prop :=
  ∀ s : State, TickNext s → s.halted = false → s.paused = true →
    ∃ u, step s = .next u ∧ u.tone = decide (s.st ≠ 0) ∧ u.renders = s.renders + 1 ∧ u.slot = 0 ∧
      Frame (fun p => p = .tone ∨ p = .renders ∨ p = .slot ∨ p = .events) s u

/-- A tick of a halted core changes nothing (60 R155, decision D37; the slot count and the list of events are the
model's). -/
def Obligations.HaltedTickChangesNothing : Prop :=
  ∀ s : State, TickNext s → s.halted = true →
    ∃ u, step s = .next u ∧ Frame (fun p => p = .slot ∨ p = .events) s u

/-- Stepping slot by slot is the Tick of R160: from between two ticks, some number of steps, at least 1 and at most
SPEED, gives exactly the state that the whole `Tick()` of R160 gives (log 3; decisions D26, D27). -/
def Obligations.StepsOfATickAreTheTick : Prop :=
  ∀ s : State, s.slot = 0 → TickNext s → 1 ≤ s.params.speed →
    ∃ k, 1 ≤ k ∧ k ≤ s.params.speed ∧ Sys2Proof.core.run k s = tick s.inTick

/-! ## Reset and the host's events -/

/-- `State.reset` holds the values of the table of R25: PC 0x200 and SP 0, the font of R26 in memory, 0 everywhere else
(decisions D6, D7, D24 of the spec; the font bytes are from general knowledge, logs 8, 9, 10). -/
def Obligations.ResetHoldsTheTableOfValues : Prop :=
  State.reset.pc = 0x200#16 ∧ State.reset.sp.val = 0 ∧ State.reset.i = 0#16 ∧
  State.reset.dt = 0#8 ∧ State.reset.st = 0#8 ∧ State.reset.paused = false ∧ State.reset.waitReg = 0#4 ∧
  State.reset.halted = false ∧ State.reset.faultCause = 0#2 ∧ State.reset.faultPc = 0#16 ∧
  State.reset.faultOp = 0#16 ∧ State.reset.tone = false ∧
  (∀ x, State.reset.reg x = 0#8) ∧ (∀ j : Fin 16, State.reset.stack[j.val] = 0#16) ∧
  (∀ k, State.reset.keyBit k = false) ∧ (∀ x y : Int, State.reset.pixel x y = false) ∧
  (∀ a : Nat, State.reset.memRead a = if h : a % 4096 < 80 then defaultFont[a % 4096] else 0#8)

/-- `Reset(image)` from any state between ticks gives the values of R25, with FONT at 0x000 and the image at 0x200
(70 R180, R182; 10 R25; decisions D6, D7, D24). The model's own fields but the slot count stay (log 22), and
the event leaves the list (log 4). -/
def Obligations.ResetEventLoadsTheImage : Prop :=
  ∀ (s : State) (image : List Byte) (es : List HostEvent), s.slot = 0 → s.events = .reset image :: es →
    image.length ≤ 3584 →
    ∃ t, step s = .next t ∧ t.pc = 0x200#16 ∧ t.sp.val = 0 ∧ t.i = 0#16 ∧ t.dt = 0#8 ∧ t.st = 0#8 ∧
      t.paused = false ∧ t.waitReg = 0#4 ∧ t.halted = false ∧ t.faultCause = 0#2 ∧ t.faultPc = 0#16 ∧
      t.faultOp = 0#16 ∧ t.tone = false ∧
      (∀ x, t.reg x = 0#8) ∧ (∀ j : Fin 16, t.stack[j.val] = 0#16) ∧ (∀ k, t.keyBit k = false) ∧
      (∀ x y : Int, t.pixel x y = false) ∧
      (∀ a : Addr12, t.memRead a.toNat =
        if h : a.toNat < 80 then s.params.font[a.toNat]
        else if 0x200 ≤ a.toNat then image.getD (a.toNat - 0x200) 0#8 else 0#8) ∧
      t.params = s.params ∧ t.draws = s.draws ∧ t.renders = s.renders ∧ t.slot = 0 ∧ t.events = es

/-- A `Reset` with an image longer than 3584 bytes is refused by name (70 R182, decision D9; logs 4, 20). -/
def Obligations.OversizedImageIsRefused : Prop :=
  ∀ (s : State) (image : List Byte) (es : List HostEvent), s.slot = 0 → s.events = .reset image :: es →
    3584 < image.length → step s = .refused (.imageTooLong image.length)

/-- `KeyDown(k)` sets `KEY[k]`; with a pending request it also writes the code to `V[WAIT_REG]` and ends the wait
(60 R164; decisions D20, D36; delivery from the list of events: log 4). -/
def Obligations.KeyDownSetsTheKeyAndAnswersTheRequest : Prop :=
  ∀ (s : State) (k : KeyCode) (es : List HostEvent), s.slot = 0 → s.events = .keyDown k :: es →
    ∃ t, step s = .next t ∧ t.keyBit k = true ∧ t.events = es ∧
      (s.paused = false → Frame (fun p => p = .keyAt k ∨ p = .events) s t) ∧
      (s.paused = true → t.paused = false ∧ (t.reg s.waitReg).toNat = k.toNat ∧
        Frame (fun p => p = .keyAt k ∨ p = .events ∨ p = .paused ∨ p = .reg s.waitReg) s t)

/-- `KeyUp(k)` clears `KEY[k]` and does nothing else (60 R165); that the step takes the event off the list of events
between ticks is the model's choice (60 R166 orders the events; log 4, DESIGN CHOICE). -/
def Obligations.KeyUpClearsTheKeyAlone : Prop :=
  ∀ (s : State) (k : KeyCode) (es : List HostEvent), s.slot = 0 → s.events = .keyUp k :: es →
    ∃ t, step s = .next t ∧ t.keyBit k = false ∧ t.events = es ∧
      Frame (fun p => p = .keyAt k ∨ p = .events) s t

/-- An FX0A, and then a key press between ticks: `V[X]` is the key's code, the core runs again, the PC is where the
FX0A left it (45 R143, 60 R164; CH8's scenario 95 S9; decision D20, log 4). -/
def Obligations.KeyPressCompletesTheWait : Prop :=
  ∀ (x : RegIdx) (k : KeyCode) (s t : State) (es : List HostEvent), exec (.ldVxK x) s = .next t →
    ∃ u, step { t with slot := 0, events := .keyDown k :: es } = .next u ∧ (u.reg x).toNat = k.toNat ∧
      u.paused = false ∧ u.pc = s.pc ∧ (∀ y, y ≠ x → u.reg y = s.reg y)

/-! ## Invariants and whole-machine rules -/

/-- The invariant holds at reset. -/
def Obligations.ResetMeetsTheInvariant : Prop := Inv State.reset

/-- Every step keeps the invariant: memory canonical, R27 (c), R27 (d), and the slot count (log 3). -/
def Obligations.EveryStepKeepsTheInvariant : Prop :=
  ∀ s t : State, Inv s → step s = .next t → Inv t

/-- No step ends in a fault outcome, and only an oversized `Reset` is refused (60 R150, R158; 70 R182; a fault of the
spec is a next state, log 6). -/
def Obligations.EveryStepGoesOnUnlessTheImageIsTooLong : Prop :=
  ∀ s : State, (∃ t, step s = .next t) ∨
    ∃ image es, s.slot = 0 ∧ s.events = .reset image :: es ∧ 3584 < image.length ∧
      step s = .refused (.imageTooLong image.length)

/-- No step changes the parameters (10 R24 (c); log 1). -/
def Obligations.ParametersNeverChange : Prop :=
  ∀ s t : State, step s = .next t → t.params = s.params

/-- Which instructions write which state (10 R12, R14, R16, R17, R19 to R23, R28; 43 R127): `I` only ANNN, FX1E, FX29; `SP`
only CALL and RET; `STACK` only CALL; `DT` only FX15; `ST` only FX18; memory only FX33 and FX55; pixels only 00E0 and DXYN; the
request only FX0A; the fault record only CALL and RET; a draw only CXKK; keys, `TONE` and the model's own other
fields none (decisions D22, D25, D28; the model's fields: logs 1 to 5). -/
def Obligations.OnlyTheNamedInstructionsWriteEachPart : Prop :=
  ∀ (i : Instr) (s t : State), exec i s = .next t →
    (t.i ≠ s.i → (∃ nnn, i = .ldI nnn) ∨ (∃ x, i = .addI x) ∨ ∃ x, i = .ldF x) ∧
    (t.sp ≠ s.sp → i = .ret ∨ ∃ nnn, i = .call nnn) ∧
    (t.stack ≠ s.stack → ∃ nnn, i = .call nnn) ∧
    (t.dt ≠ s.dt → ∃ x, i = .ldDtVx x) ∧
    (t.st ≠ s.st → ∃ x, i = .ldStVx x) ∧
    (t.mem ≠ s.mem → (∃ x, i = .ldB x) ∨ ∃ x, i = .ldMemVx x) ∧
    (t.fb ≠ s.fb → i = .cls ∨ ∃ x y n, i = .drw x y n) ∧
    (t.paused ≠ s.paused ∨ t.waitReg ≠ s.waitReg → ∃ x, i = .ldVxK x) ∧
    (t.halted ≠ s.halted ∨ t.faultCause ≠ s.faultCause ∨ t.faultPc ≠ s.faultPc ∨ t.faultOp ≠ s.faultOp →
      i = .ret ∨ ∃ nnn, i = .call nnn) ∧
    (t.draws ≠ s.draws → ∃ x kk, i = .rnd x kk) ∧
    t.key = s.key ∧ t.tone = s.tone ∧ t.params = s.params ∧ t.slot = s.slot ∧ t.renders = s.renders ∧
    t.events = s.events

/-- VF changes only through the six flag writers of R11, through a destination field that is 0xF, or through the
bulk load (decisions D11, D12, D35). -/
def Obligations.OnlySixInstructionsWriteVFAsAFlag : Prop :=
  ∀ (i : Instr) (s t : State), exec i s = .next t → t.reg vf ≠ s.reg vf →
    (∃ x y, i = .addReg x y) ∨ (∃ x y, i = .sub x y) ∨ (∃ x y, i = .shr x y) ∨ (∃ x y, i = .subn x y) ∨
    (∃ x y, i = .shl x y) ∨ (∃ x y n, i = .drw x y n) ∨
    (∃ kk, i = .ldImm vf kk) ∨ (∃ kk, i = .addImm vf kk) ∨ (∃ kk, i = .rnd vf kk) ∨
    (∃ y, i = .ldReg vf y) ∨ (∃ y, i = .orReg vf y) ∨ (∃ y, i = .andReg vf y) ∨ (∃ y, i = .xorReg vf y) ∨
    i = .ldVxDt vf ∨ (i = .ldVxMem vf ∧ s.params.bulkInclusive = true)

/-- The complete account of the PC (40 R80): an instruction leaves the advanced PC, or is a skip and adds 2 more, or is
a transfer and writes its target (decisions D3, D33 on its 16 bits). -/
def Obligations.PcMovesOnlyAsTheAccountSays : Prop :=
  ∀ (i : Instr) (s t : State), exec i s = .next t →
    t.pc = s.pc ∨
    (t.pc = s.pc + 2 ∧ ((∃ x kk, i = .seImm x kk) ∨ (∃ x kk, i = .sneImm x kk) ∨ (∃ x y, i = .seReg x y) ∨
      (∃ x y, i = .sneReg x y) ∨ (∃ x, i = .skp x) ∨ ∃ x, i = .sknp x)) ∨
    (∃ nnn, (i = .jp nnn ∨ i = .call nnn) ∧ t.pc.toNat = nnn.toNat) ∨
    (∃ nnn, i = .jpV0 nnn ∧ t.pc.toNat = nnn.toNat + (s.reg 0).toNat) ∨
    (i = .ret ∧ ∃ h : s.sp.val - 1 < 16, 0 < s.sp.val ∧ t.pc = s.stack[s.sp.val - 1])

/-- An instruction that halts the core is a RET on an empty stack or a CALL on a full one, and it has written the
fault record and nothing else (60 R150, R152 to R154; decision D25; `ia` and `op`: log 7). -/
def Obligations.AFaultWritesOnlyTheRecord : Prop :=
  ∀ (i : Instr) (s t : State), s.halted = false → exec i s = .next t → t.halted = true →
    (i = .ret ∧ s.sp.val = 0 ∧ Faulted .stackUnderflow (s.pc - 2) 0x00EE s t) ∨
    ∃ nnn, i = .call nnn ∧ s.sp.val = 16 ∧ Faulted .stackOverflow (s.pc - 2) (0x2000#16 + nnn.setWidth 16) s t

/-- From a halted state only `Reset` leads out, and meanwhile only key bits change (60 R155, R156). The second premise
is R27 (d), a part of the invariant (decisions D25, D37). -/
def Obligations.HaltedIsLeftOnlyByReset : Prop :=
  ∀ s t : State, s.halted = true → s.paused = false → step s = .next t →
    (∃ image es, s.slot = 0 ∧ s.events = .reset image :: es) ∨
    (t.halted = true ∧ Frame (fun p => (∃ k, p = .keyAt k) ∨ p = .slot ∨ p = .events) s t)

/-- The wait of FX0A is ended only by a `KeyDown` or a `Reset`, taken between ticks (60 R164, R165, R168; decisions D20,
D26; the list of events: log 4). -/
def Obligations.PauseIsEndedOnlyByKeyDownOrReset : Prop :=
  ∀ s t : State, s.paused = true → step s = .next t → t.paused = false →
    s.slot = 0 ∧ ((∃ k es, s.events = .keyDown k :: es) ∨ ∃ image es, s.events = .reset image :: es)

/-- Key bits change only by the host's events, never inside a tick (10 R20, 60 R166; decision D26, log 4). -/
def Obligations.KeysChangeOnlyByHostEventsBetweenTicks : Prop :=
  ∀ s t : State, step s = .next t → t.key ≠ s.key →
    s.slot = 0 ∧ ∃ e es, s.events = e :: es ∧
      ((∃ k, e = .keyDown k) ∨ (∃ k, e = .keyUp k) ∨ ∃ image, e = .reset image)

/-- TONE changes only by a `Reset` or where a tick of a core that is not halted ends, and RENDER fires there; a timer
changes only by a `Reset`, by its own instruction, or where a tick that is not paused ends (10 R23, R28; 60 R161, R162,
R163, R168; decisions D19, D28, D37; the model's step and its counts: logs 3, 4, 5). -/
def Obligations.TimersAndToneChangeOnlyAtTheirMoments : Prop :=
  ∀ s t : State, step s = .next t →
    (t.tone ≠ s.tone → (s.slot = 0 ∧ ∃ image es, s.events = .reset image :: es) ∨
      (TickNext s ∧ s.halted = false ∧ t.renders = s.renders + 1 ∧ t.slot = 0)) ∧
    (t.dt ≠ s.dt → (s.slot = 0 ∧ ∃ image es, s.events = .reset image :: es) ∨
      (Running s ∧ ((∃ x, decodeWord (s.fetchWord s.pc.toNat) = .ok (.ldDtVx x)) ∨
        (t.renders = s.renders + 1 ∧ t.slot = 0)))) ∧
    (t.st ≠ s.st → (s.slot = 0 ∧ ∃ image es, s.events = .reset image :: es) ∨
      (Running s ∧ ((∃ x, decodeWord (s.fetchWord s.pc.toNat) = .ok (.ldStVx x)) ∨
        (t.renders = s.renders + 1 ∧ t.slot = 0))))

/-! ## Memory -/

/-- The access primitives (20 R41, R42): the address is reduced mod 4096, a read gives the byte last written, a write
changes its one byte and nothing else. -/
def Obligations.MemoryPrimitivesReduceAndReadBack : Prop :=
  ∀ (s : State) (addr : Nat) (b : Byte),
    s.memRead addr = s.memRead (addr % 4096) ∧
    (∀ a, (s.memWrite addr b).memRead a = if a % 4096 = addr % 4096 then b else s.memRead a) ∧
    Frame (fun p => p = .byteAt (BitVec.ofNat 12 addr)) s (s.memWrite addr b)

/-- Instruction fetch is big-endian, byte by byte mod 4096, and sees what was stored (20 R44, R53;
the order is the spec's own derivation, decision D2; the wrap D34). -/
def Obligations.FetchIsBigEndianAndSeesStores : Prop :=
  ∀ (s : State) (addr : Nat) (hi lo : Byte),
    (s.fetchWord addr).toNat =
      (s.memRead (addr % 4096)).toNat * 256 + (s.memRead ((addr + 1) % 4096)).toNat ∧
    (((s.memWrite addr hi).memWrite (addr + 1) lo).fetchWord addr).toNat = hi.toNat * 256 + lo.toNat

/-! ## Control transfer (40) -/

/-- JP (40 R82): the 12-bit target, and nothing else. -/
def Obligations.JumpGoesToItsAddress : Prop :=
  (∀ op : Word, op &&& 0xF000#16 = 0x1000#16 → decodeWord op = .ok (.jp (nnnOf op))) ∧
  ∀ (nnn : Addr12) (s : State), ∃ t, exec (.jp nnn) s = .next t ∧ t.pc.toNat = nnn.toNat ∧
    Frame (fun p => p = .pc) s t

/-- BNNN (40 R88): the sum of NNN and V[0], kept to 16 bits and not reduced to 12 (decision D33). -/
def Obligations.IndexedJumpAddsV0 : Prop :=
  ∀ (nnn : Addr12) (s : State), ∃ t, exec (.jpV0 nnn) s = .next t ∧
    t.pc.toNat = nnn.toNat + (s.reg 0).toNat ∧ Frame (fun p => p = .pc) s t

/-- CALL below depth 16 (40 R83): the advanced PC is pushed, all 16 bits, SP rises by one, the PC is the
target (decisions D5, D32). -/
def Obligations.CallPushesTheReturnAddress : Prop :=
  ∀ (nnn : Addr12) (s : State) (h : s.sp.val < 16), ∃ t, exec (.call nnn) s = .next t ∧
    t.sp.val = s.sp.val + 1 ∧ t.stack[s.sp.val] = s.pc ∧ t.pc.toNat = nnn.toNat ∧
    Frame (fun p => p = .pc ∨ p = .sp ∨ p = .stackAt ⟨s.sp.val, h⟩) s t

/-- RET on a stack that is not empty (40 R81): SP falls by one and the PC is the entry popped; the entry
stays (decisions D5, D32). -/
def Obligations.ReturnPopsTheStack : Prop :=
  ∀ (s : State) (_ : 0 < s.sp.val) (h : s.sp.val - 1 < 16), ∃ t, exec .ret s = .next t ∧
    t.sp.val = s.sp.val - 1 ∧ t.pc = s.stack[s.sp.val - 1] ∧ Frame (fun p => p = .pc ∨ p = .sp) s t

/-- The 17th CALL and the RET on an empty stack take their faults (40 R81, R83; 60 R150, R152 to R154; decisions D24, D25;
`ia` and `op`: log 7): cause 2 and cause 3, SP and STACK unchanged. -/
def Obligations.StackFaultsAreTaken : Prop :=
  (∀ (nnn : Addr12) (s : State), s.sp.val = 16 → ∃ t, exec (.call nnn) s = .next t ∧ t.faultCause = 2 ∧
    Faulted .stackOverflow (s.pc - 2) (0x2000#16 + nnn.setWidth 16) s t) ∧
  (∀ s : State, s.sp.val = 0 → ∃ t, exec .ret s = .next t ∧ t.faultCause = 3 ∧
    Faulted .stackUnderflow (s.pc - 2) 0x00EE s t)

/-- A RET after a CALL, with anything in between that keeps SP and STACK, continues after the CALL (40 R81, R83;
decisions D5, D32). -/
def Obligations.ReturnComesBackAfterTheCall : Prop :=
  ∀ (nnn : Addr12) (s t u : State), s.sp.val < 16 → exec (.call nnn) s = .next t → u.sp = t.sp →
    u.stack = t.stack → ∃ w, exec .ret u = .next w ∧ w.pc = s.pc ∧ w.sp = s.sp

/-- 3XKK and 4XKK (40 R84, R85): the skip adds 2 to the advanced PC, on equality, on inequality. -/
def Obligations.ImmediateSkips : Prop :=
  (∀ op : Word, op &&& 0xF000#16 = 0x3000#16 → decodeWord op = .ok (.seImm (xOf op) (kkOf op))) ∧
  (∀ op : Word, op &&& 0xF000#16 = 0x4000#16 → decodeWord op = .ok (.sneImm (xOf op) (kkOf op))) ∧
  ∀ (x : RegIdx) (kk : Byte) (s : State),
    (∃ t, exec (.seImm x kk) s = .next t ∧ t.pc = (if s.reg x = kk then s.pc + 2 else s.pc) ∧
      Frame (fun p => p = .pc) s t) ∧
    ∃ t, exec (.sneImm x kk) s = .next t ∧ t.pc = (if s.reg x = kk then s.pc else s.pc + 2) ∧
      Frame (fun p => p = .pc) s t

/-- 5XY0 and 9XY0 (40 R86, R87; that their low nibble is checked at all is decision D10). -/
def Obligations.RegisterSkips : Prop :=
  ∀ (x y : RegIdx) (s : State),
    (∃ t, exec (.seReg x y) s = .next t ∧ t.pc = (if s.reg x = s.reg y then s.pc + 2 else s.pc) ∧
      Frame (fun p => p = .pc) s t) ∧
    ∃ t, exec (.sneReg x y) s = .next t ∧ t.pc = (if s.reg x = s.reg y then s.pc else s.pc + 2) ∧
      Frame (fun p => p = .pc) s t

/-! ## Immediates and random (41) -/

/-- 6XKK and 7XKK (41 R90, R91): the load, and the sum mod 256 with no flag. -/
def Obligations.ImmediateLoadAndAdd : Prop :=
  (∀ op : Word, op &&& 0xF000#16 = 0x6000#16 → decodeWord op = .ok (.ldImm (xOf op) (kkOf op))) ∧
  (∀ op : Word, op &&& 0xF000#16 = 0x7000#16 → decodeWord op = .ok (.addImm (xOf op) (kkOf op))) ∧
  ∀ (x : RegIdx) (kk : Byte) (s : State),
    (∃ t, exec (.ldImm x kk) s = .next t ∧ t.reg x = kk ∧ Frame (fun p => p = .reg x) s t) ∧
    ∃ t, exec (.addImm x kk) s = .next t ∧ (t.reg x).toNat = ((s.reg x).toNat + kk.toNat) % 256 ∧
      Frame (fun p => p = .reg x) s t

/-- CXKK (41 R92, R93): one draw is consumed, also when `kk = 0`, and `V[X]` is the draw AND `kk`; the statement holds
for every value of the draw (a free value, log 2; decision D29). -/
def Obligations.RandomIsTheDrawMasked : Prop :=
  ∀ (x : RegIdx) (kk : Byte) (s : State), ∃ t, exec (.rnd x kk) s = .next t ∧
    t.reg x = Config.rand s.draws &&& kk ∧ t.draws = s.draws + 1 ∧ (kk = 0 → t.reg x = 0) ∧
    Frame (fun p => p = .reg x ∨ p = .draws) s t

/-! ## Register-register operations (42) -/

/-- 8XY0 to 8XY3 (42 R101 to R104): the result, and no flag (R100 (e), decision D12). -/
def Obligations.AssignAndLogicalOperations : Prop :=
  ∀ (x y : RegIdx) (s : State),
    (∃ t, exec (.ldReg x y) s = .next t ∧ t.reg x = s.reg y ∧ Frame (fun p => p = .reg x) s t) ∧
    (∃ t, exec (.orReg x y) s = .next t ∧ t.reg x = s.reg x ||| s.reg y ∧ Frame (fun p => p = .reg x) s t) ∧
    (∃ t, exec (.andReg x y) s = .next t ∧ t.reg x = s.reg x &&& s.reg y ∧ Frame (fun p => p = .reg x) s t) ∧
    ∃ t, exec (.xorReg x y) s = .next t ∧ t.reg x = s.reg x ^^^ s.reg y ∧ Frame (fun p => p = .reg x) s t

/-- 8XY4 (42 R105, R100): VF is the carry out for every `X` and `Y`; for `X != 0xF` `V[X]` is the sum mod 256 (that the
flag stays when `X = 0xF` is decision D11). -/
def Obligations.AddSetsCarry : Prop :=
  ∀ (x y : RegIdx) (s : State), ∃ t, exec (.addReg x y) s = .next t ∧
    (t.reg vf).toNat = (if 255 < (s.reg x).toNat + (s.reg y).toNat then 1 else 0) ∧
    (x ≠ vf → (t.reg x).toNat = ((s.reg x).toNat + (s.reg y).toNat) % 256) ∧
    Frame (fun p => p = .reg x ∨ p = .reg vf) s t

/-- 8XY5 and 8XY7 (42 R106, R108, R110 (d), R100): the difference mod 256, and VF = 1 exactly when the minuend is
STRICTLY greater (`X = 0xF`: decision D11). -/
def Obligations.SubtractSetsStrictFlag : Prop :=
  ∀ (x y : RegIdx) (s : State),
    (∃ t, exec (.sub x y) s = .next t ∧
      (t.reg vf).toNat = (if (s.reg y).toNat < (s.reg x).toNat then 1 else 0) ∧
      (x ≠ vf → (t.reg x).toNat = ((s.reg x).toNat + 256 - (s.reg y).toNat) % 256) ∧
      Frame (fun p => p = .reg x ∨ p = .reg vf) s t) ∧
    ∃ t, exec (.subn x y) s = .next t ∧
      (t.reg vf).toNat = (if (s.reg x).toNat < (s.reg y).toNat then 1 else 0) ∧
      (x ≠ vf → (t.reg x).toNat = ((s.reg y).toNat + 256 - (s.reg x).toNat) % 256) ∧
      Frame (fun p => p = .reg x ∨ p = .reg vf) s t

/-- 8XY6 and 8XYE (42 R107, R109, R100): `V[X]` is shifted in place by one, VF is the bit shifted out, and `Y` takes part
in nothing (30 R74) (decisions D11, D13, D14). -/
def Obligations.ShiftsMoveOneBitIntoVF : Prop :=
  ∀ (x y : RegIdx) (s : State),
    (∃ t, exec (.shr x y) s = .next t ∧ (t.reg vf).toNat = (s.reg x).toNat % 2 ∧
      (x ≠ vf → (t.reg x).toNat = (s.reg x).toNat / 2) ∧ Frame (fun p => p = .reg x ∨ p = .reg vf) s t) ∧
    ∃ t, exec (.shl x y) s = .next t ∧ (t.reg vf).toNat = (s.reg x).toNat / 128 ∧
      (x ≠ vf → (t.reg x).toNat = (s.reg x).toNat * 2 % 256) ∧ Frame (fun p => p = .reg x ∨ p = .reg vf) s t

/-! ## Address register and memory (43) -/

/-- ANNN (43 R120): `I` is the 12-bit address, bits 15:12 are 0. -/
def Obligations.LoadAddressRegister : Prop :=
  (∀ op : Word, op &&& 0xF000#16 = 0xA000#16 → decodeWord op = .ok (.ldI (nnnOf op))) ∧
  ∀ (nnn : Addr12) (s : State), ∃ t, exec (.ldI nnn) s = .next t ∧ t.i.toNat = nnn.toNat ∧
    Frame (fun p => p = .idx) s t

/-- FX1E and FX29 (43 R121, R122): the sum mod 65536 with no flag (D35), and five times the whole byte (D23). -/
def Obligations.AddressRegisterArithmetic : Prop :=
  ∀ (x : RegIdx) (s : State),
    (∃ t, exec (.addI x) s = .next t ∧ t.i.toNat = (s.i.toNat + (s.reg x).toNat) % 65536 ∧
      Frame (fun p => p = .idx) s t) ∧
    ∃ t, exec (.ldF x) s = .next t ∧ t.i.toNat = (s.reg x).toNat * 5 ∧ Frame (fun p => p = .idx) s t

/-- FX33 (43 R123): the three decimal digits at `I`, `I + 1`, `I + 2`, each address mod 4096, and no other byte
(decisions D22, D34). -/
def Obligations.DecimalDigitsAreStored : Prop :=
  ∀ (x : RegIdx) (s : State), ∃ t, exec (.ldB x) s = .next t ∧
    (t.memRead (s.effAddr 0)).toNat = (s.reg x).toNat / 100 ∧
    (t.memRead (s.effAddr 1)).toNat = (s.reg x).toNat / 10 % 10 ∧
    (t.memRead (s.effAddr 2)).toNat = (s.reg x).toNat % 10 ∧
    Frame (fun p => ∃ k, k < 3 ∧ p = .byteAt (s.cellAt k)) s t

/-- FX55 (43 R124, R125), for both values of the OPEN parameter: byte `k` at `I + k` is `V[k]` for every `k` below
BULK_COUNT(X), and no other byte changes; `I` stays (decisions D21, D22, D34). -/
def Obligations.BulkStoreCopiesTheRegisters : Prop :=
  ∀ (x : RegIdx) (s : State) (count : Nat),
    count = (if s.params.bulkInclusive then x.toNat + 1 else x.toNat) →
    ∃ t, exec (.ldMemVx x) s = .next t ∧
      (∀ k, k < count → t.memRead (s.effAddr k) = s.reg (BitVec.ofNat 4 k)) ∧
      Frame (fun p => ∃ k, k < count ∧ p = .byteAt (s.cellAt k)) s t

/-- FX65 (43 R124, R126), for both values of the OPEN parameter: `V[k]` is the byte at `I + k` for every `k` below
BULK_COUNT(X), and no other register changes; `I` stays (decisions D21, D22, D34). -/
def Obligations.BulkLoadCopiesTheBytes : Prop :=
  ∀ (x : RegIdx) (s : State) (count : Nat),
    count = (if s.params.bulkInclusive then x.toNat + 1 else x.toNat) →
    ∃ t, exec (.ldVxMem x) s = .next t ∧
      (∀ k, k < count → t.reg (BitVec.ofNat 4 k) = s.memRead (s.effAddr k)) ∧
      Frame (fun p => ∃ k, k < count ∧ p = .reg (BitVec.ofNat 4 k)) s t

/-- An FX55 followed by an FX65 with the same `X` and `I` restores the registers it stored, whatever the registers held
in between (43 R126, corner cases; R127: `I` stays; decisions D21, D22). -/
def Obligations.BulkLoadRestoresWhatBulkStoreSaved : Prop :=
  ∀ (x : RegIdx) (s t u : State), exec (.ldMemVx x) s = .next t → u.mem = t.mem → u.i = t.i →
    u.params = t.params → ∃ w, exec (.ldVxMem x) u = .next w ∧
      ∀ k, k < s.bulkCount x → w.reg (BitVec.ofNat 4 k) = s.reg (BitVec.ofNat 4 k)

/-! ## Framebuffer (44) -/

/-- `TogglePixel` (44 R130, R131): any integer coordinates name the cell at their floor moduli; it returns whether
the pixel was set and inverts that one pixel. -/
def Obligations.TogglePixelWrapsAndInverts : Prop :=
  ∀ (s : State) (x y : Int),
    s.pixel x y = s.fbCell ((y % 32) * 64 + x % 64).toNat ∧
    (s.togglePixel x y).1 = s.pixel x y ∧
    (∀ x' y' : Int, (s.togglePixel x y).2.pixel x' y' =
      if x' % 64 = x % 64 ∧ y' % 32 = y % 32 then !s.pixel x' y' else s.pixel x' y') ∧
    (∀ j k : Int, s.togglePixel (x + 64 * j) (y + 32 * k) = s.togglePixel x y) ∧
    Frame (fun p => ∃ a b, p = .pixelAt a b) s (s.togglePixel x y).2

/-- 00E0 (44 R132): every one of the 2048 cells is 0, VF and everything else is unchanged. -/
def Obligations.ClearScreenClearsEveryPixel : Prop :=
  decodeWord 0x00E0 = .ok .cls ∧
  ∀ s : State, ∃ t, exec .cls s = .next t ∧ (∀ j, j < 2048 → t.fbCell j = false) ∧
    Frame (fun p => ∃ x y, p = .pixelAt x y) s t

/-- DXYN (44 R133, corner cases (a) to (e)): a pixel is inverted exactly when a 1 bit of the sprite lands on it, with
both coordinates read before VF is cleared; VF is 1 exactly when such a pixel was set before, else 0 (D15 to D17). -/
def Obligations.DrawInvertsExactlyTheCoveredPixels : Prop :=
  ∀ (x y : RegIdx) (n : BitVec 4) (s : State), ∃ t, exec (.drw x y n) s = .next t ∧
    (∀ col row : Nat, col < 64 → row < 32 →
      (t.pixel col row = true ↔ ¬(s.pixel col row = true ↔ Covers s x y n col row))) ∧
    (t.reg vf = 0 ∨ t.reg vf = 1) ∧
    (t.reg vf = 1 ↔ ∃ col row : Nat, Covers s x y n col row ∧ s.pixel col row = true) ∧
    Frame (fun p => p = .reg vf ∨ ∃ a b, p = .pixelAt a b) s t

/-- Drawing the same sprite twice at the same place restores the framebuffer, and the second VF is 1 exactly when a
covered pixel was clear at first (44 R134 (a), (b); a coordinate in VF is left out because the first draw changes it;
decisions D15 to D17). -/
def Obligations.DrawingTwiceRestoresTheScreen : Prop :=
  ∀ (x y : RegIdx) (n : BitVec 4) (s : State), x ≠ vf → y ≠ vf →
    ∃ t u, exec (.drw x y n) s = .next t ∧ exec (.drw x y n) t = .next u ∧
      (∀ a b : Int, u.pixel a b = s.pixel a b) ∧
      (u.reg vf = 1 ↔ ∃ col row : Nat, Covers s x y n col row ∧ s.pixel col row = false)

/-! ## Keys and timers (45) -/

/-- EX9E and EXA1 (45 R140 to R142): the key is the low four bits of `V[X]` (D18). -/
def Obligations.KeySkips : Prop :=
  ∀ (x : RegIdx) (s : State) (k : KeyCode), k.toNat = (s.reg x).toNat % 16 →
    (∃ t, exec (.skp x) s = .next t ∧ t.pc = (if s.keyBit k = true then s.pc + 2 else s.pc) ∧
      Frame (fun p => p = .pc) s t) ∧
    ∃ t, exec (.sknp x) s = .next t ∧ t.pc = (if s.keyBit k = true then s.pc else s.pc + 2) ∧
      Frame (fun p => p = .pc) s t

/-- FX07, FX15, FX18 (45 R144 to R146; the assignment of the three patterns is decision D19): `TONE` is not touched. -/
def Obligations.TimerInstructions : Prop :=
  ∀ (x : RegIdx) (s : State),
    (∃ t, exec (.ldVxDt x) s = .next t ∧ t.reg x = s.dt ∧ Frame (fun p => p = .reg x) s t) ∧
    (∃ t, exec (.ldDtVx x) s = .next t ∧ t.dt = s.reg x ∧ Frame (fun p => p = .dt) s t) ∧
    ∃ t, exec (.ldStVx x) s = .next t ∧ t.st = s.reg x ∧ Frame (fun p => p = .st) s t

/-- FX0A (45 R143): it registers the request and writes no register, whatever keys are held (D20). -/
def Obligations.WaitForKeyOnlyRegistersTheRequest : Prop :=
  ∀ (x : RegIdx) (s : State), ∃ t, exec (.ldVxK x) s = .next t ∧ t.paused = true ∧ t.waitReg = x ∧
    Frame (fun p => p = .paused ∨ p = .waitReg) s t
end

