-- ==== Sys2Proof/Laws/Encoding.lean ====
section
/-! SUPPORT. The formats of R61: the masked bits and the fields of an encoded word. -/

namespace Sys2Proof.Laws

/-! ## Masks (R66) -/

theorem fmtA_masked (t : BitVec 4) (nnn : Addr12) : fmtA t nnn &&& 0xF000#16 = t ++ 0#12 := by
  apply BitVec.eq_of_getLsbD_eq
  intro i hi
  simp only [fmtA, BitVec.getLsbD_and, BitVec.getLsbD_append]
  interval_cases i <;> simp

theorem fmtI_masked (t : BitVec 4) (x : RegIdx) (kk : Byte) : fmtI t x kk &&& 0xF000#16 = t ++ 0#12 := by
  apply BitVec.eq_of_getLsbD_eq
  intro i hi
  simp only [fmtI, BitVec.getLsbD_and, BitVec.getLsbD_append]
  interval_cases i <;> simp

theorem fmtS_masked (t : BitVec 4) (x : RegIdx) (kk : Byte) : fmtI t x kk &&& 0xF0FF#16 = (t ++ 0#4) ++ kk := by
  apply BitVec.eq_of_getLsbD_eq
  intro i hi
  simp only [fmtI, BitVec.getLsbD_and, BitVec.getLsbD_append]
  interval_cases i <;> simp

theorem fmtR_masked (t : BitVec 4) (x y : RegIdx) (n : BitVec 4) : fmtR t x y n &&& 0xF00F#16 = (t ++ 0#8) ++ n := by
  apply BitVec.eq_of_getLsbD_eq
  intro i hi
  simp only [fmtR, BitVec.getLsbD_and, BitVec.getLsbD_append]
  interval_cases i <;> simp

theorem fmtD_masked (t : BitVec 4) (x y : RegIdx) (n : BitVec 4) : fmtR t x y n &&& 0xF000#16 = t ++ 0#12 := by
  apply BitVec.eq_of_getLsbD_eq
  intro i hi
  simp only [fmtR, BitVec.getLsbD_and, BitVec.getLsbD_append]
  interval_cases i <;> simp

/-! ## Fields (R5) -/

@[simp] theorem topOf_fmtA (t : BitVec 4) (nnn : Addr12) : topOf (fmtA t nnn) = t := by
  apply BitVec.eq_of_getLsbD_eq
  intro i hi
  simp only [topOf, fmtA, BitVec.getLsbD_extractLsb', BitVec.getLsbD_append]
  interval_cases i <;> simp

@[simp] theorem nnnOf_fmtA (t : BitVec 4) (nnn : Addr12) : nnnOf (fmtA t nnn) = nnn := by
  apply BitVec.eq_of_getLsbD_eq
  intro i hi
  simp only [nnnOf, fmtA, BitVec.getLsbD_extractLsb', BitVec.getLsbD_append]
  interval_cases i <;> simp

@[simp] theorem topOf_fmtI (t : BitVec 4) (x : RegIdx) (kk : Byte) : topOf (fmtI t x kk) = t := by
  apply BitVec.eq_of_getLsbD_eq
  intro i hi
  simp only [topOf, fmtI, BitVec.getLsbD_extractLsb', BitVec.getLsbD_append]
  interval_cases i <;> simp

@[simp] theorem xOf_fmtI (t : BitVec 4) (x : RegIdx) (kk : Byte) : xOf (fmtI t x kk) = x := by
  apply BitVec.eq_of_getLsbD_eq
  intro i hi
  simp only [xOf, fmtI, BitVec.getLsbD_extractLsb', BitVec.getLsbD_append]
  interval_cases i <;> simp

@[simp] theorem kkOf_fmtI (t : BitVec 4) (x : RegIdx) (kk : Byte) : kkOf (fmtI t x kk) = kk := by
  apply BitVec.eq_of_getLsbD_eq
  intro i hi
  simp only [kkOf, fmtI, BitVec.getLsbD_extractLsb', BitVec.getLsbD_append]
  interval_cases i <;> simp

@[simp] theorem topOf_fmtR (t : BitVec 4) (x y : RegIdx) (n : BitVec 4) : topOf (fmtR t x y n) = t := by
  apply BitVec.eq_of_getLsbD_eq
  intro i hi
  simp only [topOf, fmtR, BitVec.getLsbD_extractLsb', BitVec.getLsbD_append]
  interval_cases i <;> simp

@[simp] theorem xOf_fmtR (t : BitVec 4) (x y : RegIdx) (n : BitVec 4) : xOf (fmtR t x y n) = x := by
  apply BitVec.eq_of_getLsbD_eq
  intro i hi
  simp only [xOf, fmtR, BitVec.getLsbD_extractLsb', BitVec.getLsbD_append]
  interval_cases i <;> simp

@[simp] theorem yOf_fmtR (t : BitVec 4) (x y : RegIdx) (n : BitVec 4) : yOf (fmtR t x y n) = y := by
  apply BitVec.eq_of_getLsbD_eq
  intro i hi
  simp only [yOf, fmtR, BitVec.getLsbD_extractLsb', BitVec.getLsbD_append]
  interval_cases i <;> simp

@[simp] theorem nOf_fmtR (t : BitVec 4) (x y : RegIdx) (n : BitVec 4) : nOf (fmtR t x y n) = n := by
  apply BitVec.eq_of_getLsbD_eq
  intro i hi
  simp only [nOf, fmtR, BitVec.getLsbD_extractLsb', BitVec.getLsbD_append]
  interval_cases i <;> simp

/-! ## A word is its fields (R61) -/

theorem fmtA_fields (op : Word) : fmtA (topOf op) (nnnOf op) = op := by
  apply BitVec.eq_of_getLsbD_eq
  intro i hi
  simp only [fmtA, topOf, nnnOf, BitVec.getLsbD_extractLsb', BitVec.getLsbD_append]
  interval_cases i <;> simp

theorem fmtI_fields (op : Word) : fmtI (topOf op) (xOf op) (kkOf op) = op := by
  apply BitVec.eq_of_getLsbD_eq
  intro i hi
  simp only [fmtI, topOf, xOf, kkOf, BitVec.getLsbD_extractLsb', BitVec.getLsbD_append]
  interval_cases i <;> simp

theorem fmtR_fields (op : Word) : fmtR (topOf op) (xOf op) (yOf op) (nOf op) = op := by
  apply BitVec.eq_of_getLsbD_eq
  intro i hi
  simp only [fmtR, topOf, xOf, yOf, nOf, BitVec.getLsbD_extractLsb', BitVec.getLsbD_append]
  interval_cases i <;> simp

/-- Selecting a row of formats A and I, and of DXYN, is a question about the top nibble (R66). -/
theorem masked_top_iff (op : Word) (t : BitVec 4) : op &&& 0xF000#16 = t ++ 0#12 ↔ topOf op = t := by
  have e : op &&& 0xF000#16 = topOf op ++ 0#12 := by rw [← fmtA_masked _ (nnnOf op), fmtA_fields]
  rw [e]
  refine ⟨fun h => ?_, fun h => by rw [h]⟩
  have f : ∀ t : BitVec 4, t ++ 0#12 = fmtA t 0 := fun _ => rfl
  rw [f, f] at h
  simpa using congrArg topOf h

/-- Selecting a row of format R with a function code is a question about two nibbles (R66). -/
theorem masked_alu_iff (op : Word) (t n : BitVec 4) :
    op &&& 0xF00F#16 = (t ++ 0#8) ++ n ↔ topOf op = t ∧ nOf op = n := by
  have e : op &&& 0xF00F#16 = (topOf op ++ 0#8) ++ nOf op := by
    rw [← fmtR_masked _ (xOf op) (yOf op), fmtR_fields]
  rw [e]
  refine ⟨fun h => ?_, fun h => by rw [h.1, h.2]⟩
  have f : ∀ t n : BitVec 4, (t ++ 0#8) ++ n = fmtR t 0 0 n := fun t n => by
    apply BitVec.eq_of_getLsbD_eq
    intro i hi
    simp only [fmtR, BitVec.getLsbD_append]
    interval_cases i <;> simp
  rw [f, f] at h
  exact ⟨by simpa using congrArg topOf h, by simpa using congrArg nOf h⟩

/-- Selecting a row of format S is a question about the top nibble and the low byte (R66). -/
theorem masked_sub_iff (op : Word) (t : BitVec 4) (kk : Byte) :
    op &&& 0xF0FF#16 = (t ++ 0#4) ++ kk ↔ topOf op = t ∧ kkOf op = kk := by
  have e : op &&& 0xF0FF#16 = (topOf op ++ 0#4) ++ kkOf op := by rw [← fmtS_masked _ (xOf op), fmtI_fields]
  rw [e]
  refine ⟨fun h => ?_, fun h => by rw [h.1, h.2]⟩
  have f : ∀ (t : BitVec 4) (kk : Byte), (t ++ 0#4) ++ kk = fmtI t 0 kk := fun _ _ => rfl
  rw [f, f] at h
  exact ⟨by simpa using congrArg topOf h, by simpa using congrArg kkOf h⟩

/-! ## The two bytes (R44) -/

@[simp] theorem wordOfBytes_high_low (op : Word) : wordOfBytes (highByte op) (lowByte op) = op := by
  apply BitVec.eq_of_getLsbD_eq
  intro i hi
  simp only [wordOfBytes, highByte, lowByte, BitVec.getLsbD_extractLsb', BitVec.getLsbD_append]
  interval_cases i <;> simp

@[simp] theorem highByte_wordOfBytes (hi lo : Byte) : highByte (wordOfBytes hi lo) = hi := by
  apply BitVec.eq_of_getLsbD_eq
  intro i hi
  simp only [wordOfBytes, highByte, BitVec.getLsbD_extractLsb', BitVec.getLsbD_append]
  interval_cases i <;> simp

@[simp] theorem lowByte_wordOfBytes (hi lo : Byte) : lowByte (wordOfBytes hi lo) = lo := by
  apply BitVec.eq_of_getLsbD_eq
  intro i hi
  simp only [wordOfBytes, lowByte, BitVec.getLsbD_extractLsb', BitVec.getLsbD_append]
  interval_cases i <;> simp

end Sys2Proof.Laws
end

