-- ==== Sys2Proof/Laws/State.lean ====
section
/-! SUPPORT. One lemma per field per named update of State, each true by rfl, so that no later proof unfolds a record
update. -/

namespace Sys2Proof.Laws

open Sys2Proof.Machine

/-! ## setReg -/

@[simp] theorem setReg_v (s : State) (x : RegIdx) (b : Byte) : (s.setReg x b).v = s.v.set x.toNat b x.isLt := rfl
@[simp] theorem setReg_i (s : State) (x : RegIdx) (b : Byte) : (s.setReg x b).i = s.i := rfl
@[simp] theorem setReg_pc (s : State) (x : RegIdx) (b : Byte) : (s.setReg x b).pc = s.pc := rfl
@[simp] theorem setReg_sp (s : State) (x : RegIdx) (b : Byte) : (s.setReg x b).sp = s.sp := rfl
@[simp] theorem setReg_stack (s : State) (x : RegIdx) (b : Byte) : (s.setReg x b).stack = s.stack := rfl
@[simp] theorem setReg_dt (s : State) (x : RegIdx) (b : Byte) : (s.setReg x b).dt = s.dt := rfl
@[simp] theorem setReg_st (s : State) (x : RegIdx) (b : Byte) : (s.setReg x b).st = s.st := rfl
@[simp] theorem setReg_mem (s : State) (x : RegIdx) (b : Byte) : (s.setReg x b).mem = s.mem := rfl
@[simp] theorem setReg_fb (s : State) (x : RegIdx) (b : Byte) : (s.setReg x b).fb = s.fb := rfl
@[simp] theorem setReg_key (s : State) (x : RegIdx) (b : Byte) : (s.setReg x b).key = s.key := rfl
@[simp] theorem setReg_paused (s : State) (x : RegIdx) (b : Byte) : (s.setReg x b).paused = s.paused := rfl
@[simp] theorem setReg_waitReg (s : State) (x : RegIdx) (b : Byte) : (s.setReg x b).waitReg = s.waitReg := rfl
@[simp] theorem setReg_halted (s : State) (x : RegIdx) (b : Byte) : (s.setReg x b).halted = s.halted := rfl
@[simp] theorem setReg_faultCause (s : State) (x : RegIdx) (b : Byte) : (s.setReg x b).faultCause = s.faultCause := rfl
@[simp] theorem setReg_faultPc (s : State) (x : RegIdx) (b : Byte) : (s.setReg x b).faultPc = s.faultPc := rfl
@[simp] theorem setReg_faultOp (s : State) (x : RegIdx) (b : Byte) : (s.setReg x b).faultOp = s.faultOp := rfl
@[simp] theorem setReg_tone (s : State) (x : RegIdx) (b : Byte) : (s.setReg x b).tone = s.tone := rfl
@[simp] theorem setReg_params (s : State) (x : RegIdx) (b : Byte) : (s.setReg x b).params = s.params := rfl
@[simp] theorem setReg_draws (s : State) (x : RegIdx) (b : Byte) : (s.setReg x b).draws = s.draws := rfl
@[simp] theorem setReg_slot (s : State) (x : RegIdx) (b : Byte) : (s.setReg x b).slot = s.slot := rfl
@[simp] theorem setReg_renders (s : State) (x : RegIdx) (b : Byte) : (s.setReg x b).renders = s.renders := rfl
@[simp] theorem setReg_events (s : State) (x : RegIdx) (b : Byte) : (s.setReg x b).events = s.events := rfl

/-! ## memWrite -/

@[simp] theorem memWrite_v (s : State) (a : Nat) (b : Byte) : (s.memWrite a b).v = s.v := rfl
@[simp] theorem memWrite_i (s : State) (a : Nat) (b : Byte) : (s.memWrite a b).i = s.i := rfl
@[simp] theorem memWrite_pc (s : State) (a : Nat) (b : Byte) : (s.memWrite a b).pc = s.pc := rfl
@[simp] theorem memWrite_sp (s : State) (a : Nat) (b : Byte) : (s.memWrite a b).sp = s.sp := rfl
@[simp] theorem memWrite_stack (s : State) (a : Nat) (b : Byte) : (s.memWrite a b).stack = s.stack := rfl
@[simp] theorem memWrite_dt (s : State) (a : Nat) (b : Byte) : (s.memWrite a b).dt = s.dt := rfl
@[simp] theorem memWrite_st (s : State) (a : Nat) (b : Byte) : (s.memWrite a b).st = s.st := rfl
@[simp] theorem memWrite_mem (s : State) (a : Nat) (b : Byte) : (s.memWrite a b).mem = Memory.write s.mem (a % memSize) b := rfl
@[simp] theorem memWrite_fb (s : State) (a : Nat) (b : Byte) : (s.memWrite a b).fb = s.fb := rfl
@[simp] theorem memWrite_key (s : State) (a : Nat) (b : Byte) : (s.memWrite a b).key = s.key := rfl
@[simp] theorem memWrite_paused (s : State) (a : Nat) (b : Byte) : (s.memWrite a b).paused = s.paused := rfl
@[simp] theorem memWrite_waitReg (s : State) (a : Nat) (b : Byte) : (s.memWrite a b).waitReg = s.waitReg := rfl
@[simp] theorem memWrite_halted (s : State) (a : Nat) (b : Byte) : (s.memWrite a b).halted = s.halted := rfl
@[simp] theorem memWrite_faultCause (s : State) (a : Nat) (b : Byte) : (s.memWrite a b).faultCause = s.faultCause := rfl
@[simp] theorem memWrite_faultPc (s : State) (a : Nat) (b : Byte) : (s.memWrite a b).faultPc = s.faultPc := rfl
@[simp] theorem memWrite_faultOp (s : State) (a : Nat) (b : Byte) : (s.memWrite a b).faultOp = s.faultOp := rfl
@[simp] theorem memWrite_tone (s : State) (a : Nat) (b : Byte) : (s.memWrite a b).tone = s.tone := rfl
@[simp] theorem memWrite_params (s : State) (a : Nat) (b : Byte) : (s.memWrite a b).params = s.params := rfl
@[simp] theorem memWrite_draws (s : State) (a : Nat) (b : Byte) : (s.memWrite a b).draws = s.draws := rfl
@[simp] theorem memWrite_slot (s : State) (a : Nat) (b : Byte) : (s.memWrite a b).slot = s.slot := rfl
@[simp] theorem memWrite_renders (s : State) (a : Nat) (b : Byte) : (s.memWrite a b).renders = s.renders := rfl
@[simp] theorem memWrite_events (s : State) (a : Nat) (b : Byte) : (s.memWrite a b).events = s.events := rfl

/-! ## advance -/

@[simp] theorem advance_v (s : State) : (s.advance).v = s.v := rfl
@[simp] theorem advance_i (s : State) : (s.advance).i = s.i := rfl
@[simp] theorem advance_pc (s : State) : (s.advance).pc = s.pc + 2 := rfl
@[simp] theorem advance_sp (s : State) : (s.advance).sp = s.sp := rfl
@[simp] theorem advance_stack (s : State) : (s.advance).stack = s.stack := rfl
@[simp] theorem advance_dt (s : State) : (s.advance).dt = s.dt := rfl
@[simp] theorem advance_st (s : State) : (s.advance).st = s.st := rfl
@[simp] theorem advance_mem (s : State) : (s.advance).mem = s.mem := rfl
@[simp] theorem advance_fb (s : State) : (s.advance).fb = s.fb := rfl
@[simp] theorem advance_key (s : State) : (s.advance).key = s.key := rfl
@[simp] theorem advance_paused (s : State) : (s.advance).paused = s.paused := rfl
@[simp] theorem advance_waitReg (s : State) : (s.advance).waitReg = s.waitReg := rfl
@[simp] theorem advance_halted (s : State) : (s.advance).halted = s.halted := rfl
@[simp] theorem advance_faultCause (s : State) : (s.advance).faultCause = s.faultCause := rfl
@[simp] theorem advance_faultPc (s : State) : (s.advance).faultPc = s.faultPc := rfl
@[simp] theorem advance_faultOp (s : State) : (s.advance).faultOp = s.faultOp := rfl
@[simp] theorem advance_tone (s : State) : (s.advance).tone = s.tone := rfl
@[simp] theorem advance_params (s : State) : (s.advance).params = s.params := rfl
@[simp] theorem advance_draws (s : State) : (s.advance).draws = s.draws := rfl
@[simp] theorem advance_slot (s : State) : (s.advance).slot = s.slot := rfl
@[simp] theorem advance_renders (s : State) : (s.advance).renders = s.renders := rfl
@[simp] theorem advance_events (s : State) : (s.advance).events = s.events := rfl

/-! ## jump -/

@[simp] theorem jump_v (s : State) (w : Word) : (s.jump w).v = s.v := rfl
@[simp] theorem jump_i (s : State) (w : Word) : (s.jump w).i = s.i := rfl
@[simp] theorem jump_pc (s : State) (w : Word) : (s.jump w).pc = w := rfl
@[simp] theorem jump_sp (s : State) (w : Word) : (s.jump w).sp = s.sp := rfl
@[simp] theorem jump_stack (s : State) (w : Word) : (s.jump w).stack = s.stack := rfl
@[simp] theorem jump_dt (s : State) (w : Word) : (s.jump w).dt = s.dt := rfl
@[simp] theorem jump_st (s : State) (w : Word) : (s.jump w).st = s.st := rfl
@[simp] theorem jump_mem (s : State) (w : Word) : (s.jump w).mem = s.mem := rfl
@[simp] theorem jump_fb (s : State) (w : Word) : (s.jump w).fb = s.fb := rfl
@[simp] theorem jump_key (s : State) (w : Word) : (s.jump w).key = s.key := rfl
@[simp] theorem jump_paused (s : State) (w : Word) : (s.jump w).paused = s.paused := rfl
@[simp] theorem jump_waitReg (s : State) (w : Word) : (s.jump w).waitReg = s.waitReg := rfl
@[simp] theorem jump_halted (s : State) (w : Word) : (s.jump w).halted = s.halted := rfl
@[simp] theorem jump_faultCause (s : State) (w : Word) : (s.jump w).faultCause = s.faultCause := rfl
@[simp] theorem jump_faultPc (s : State) (w : Word) : (s.jump w).faultPc = s.faultPc := rfl
@[simp] theorem jump_faultOp (s : State) (w : Word) : (s.jump w).faultOp = s.faultOp := rfl
@[simp] theorem jump_tone (s : State) (w : Word) : (s.jump w).tone = s.tone := rfl
@[simp] theorem jump_params (s : State) (w : Word) : (s.jump w).params = s.params := rfl
@[simp] theorem jump_draws (s : State) (w : Word) : (s.jump w).draws = s.draws := rfl
@[simp] theorem jump_slot (s : State) (w : Word) : (s.jump w).slot = s.slot := rfl
@[simp] theorem jump_renders (s : State) (w : Word) : (s.jump w).renders = s.renders := rfl
@[simp] theorem jump_events (s : State) (w : Word) : (s.jump w).events = s.events := rfl

/-! ## setI -/

@[simp] theorem setI_v (s : State) (w : Word) : (s.setI w).v = s.v := rfl
@[simp] theorem setI_i (s : State) (w : Word) : (s.setI w).i = w := rfl
@[simp] theorem setI_pc (s : State) (w : Word) : (s.setI w).pc = s.pc := rfl
@[simp] theorem setI_sp (s : State) (w : Word) : (s.setI w).sp = s.sp := rfl
@[simp] theorem setI_stack (s : State) (w : Word) : (s.setI w).stack = s.stack := rfl
@[simp] theorem setI_dt (s : State) (w : Word) : (s.setI w).dt = s.dt := rfl
@[simp] theorem setI_st (s : State) (w : Word) : (s.setI w).st = s.st := rfl
@[simp] theorem setI_mem (s : State) (w : Word) : (s.setI w).mem = s.mem := rfl
@[simp] theorem setI_fb (s : State) (w : Word) : (s.setI w).fb = s.fb := rfl
@[simp] theorem setI_key (s : State) (w : Word) : (s.setI w).key = s.key := rfl
@[simp] theorem setI_paused (s : State) (w : Word) : (s.setI w).paused = s.paused := rfl
@[simp] theorem setI_waitReg (s : State) (w : Word) : (s.setI w).waitReg = s.waitReg := rfl
@[simp] theorem setI_halted (s : State) (w : Word) : (s.setI w).halted = s.halted := rfl
@[simp] theorem setI_faultCause (s : State) (w : Word) : (s.setI w).faultCause = s.faultCause := rfl
@[simp] theorem setI_faultPc (s : State) (w : Word) : (s.setI w).faultPc = s.faultPc := rfl
@[simp] theorem setI_faultOp (s : State) (w : Word) : (s.setI w).faultOp = s.faultOp := rfl
@[simp] theorem setI_tone (s : State) (w : Word) : (s.setI w).tone = s.tone := rfl
@[simp] theorem setI_params (s : State) (w : Word) : (s.setI w).params = s.params := rfl
@[simp] theorem setI_draws (s : State) (w : Word) : (s.setI w).draws = s.draws := rfl
@[simp] theorem setI_slot (s : State) (w : Word) : (s.setI w).slot = s.slot := rfl
@[simp] theorem setI_renders (s : State) (w : Word) : (s.setI w).renders = s.renders := rfl
@[simp] theorem setI_events (s : State) (w : Word) : (s.setI w).events = s.events := rfl

/-! ## raise -/

@[simp] theorem raise_v (s : State) (f : Fault) (ia op : Word) : (s.raise f ia op).v = s.v := rfl
@[simp] theorem raise_i (s : State) (f : Fault) (ia op : Word) : (s.raise f ia op).i = s.i := rfl
@[simp] theorem raise_pc (s : State) (f : Fault) (ia op : Word) : (s.raise f ia op).pc = s.pc := rfl
@[simp] theorem raise_sp (s : State) (f : Fault) (ia op : Word) : (s.raise f ia op).sp = s.sp := rfl
@[simp] theorem raise_stack (s : State) (f : Fault) (ia op : Word) : (s.raise f ia op).stack = s.stack := rfl
@[simp] theorem raise_dt (s : State) (f : Fault) (ia op : Word) : (s.raise f ia op).dt = s.dt := rfl
@[simp] theorem raise_st (s : State) (f : Fault) (ia op : Word) : (s.raise f ia op).st = s.st := rfl
@[simp] theorem raise_mem (s : State) (f : Fault) (ia op : Word) : (s.raise f ia op).mem = s.mem := rfl
@[simp] theorem raise_fb (s : State) (f : Fault) (ia op : Word) : (s.raise f ia op).fb = s.fb := rfl
@[simp] theorem raise_key (s : State) (f : Fault) (ia op : Word) : (s.raise f ia op).key = s.key := rfl
@[simp] theorem raise_paused (s : State) (f : Fault) (ia op : Word) : (s.raise f ia op).paused = s.paused := rfl
@[simp] theorem raise_waitReg (s : State) (f : Fault) (ia op : Word) : (s.raise f ia op).waitReg = s.waitReg := rfl
@[simp] theorem raise_halted (s : State) (f : Fault) (ia op : Word) : (s.raise f ia op).halted = true := rfl
@[simp] theorem raise_faultCause (s : State) (f : Fault) (ia op : Word) : (s.raise f ia op).faultCause = f.code := rfl
@[simp] theorem raise_faultPc (s : State) (f : Fault) (ia op : Word) : (s.raise f ia op).faultPc = ia := rfl
@[simp] theorem raise_faultOp (s : State) (f : Fault) (ia op : Word) : (s.raise f ia op).faultOp = op := rfl
@[simp] theorem raise_tone (s : State) (f : Fault) (ia op : Word) : (s.raise f ia op).tone = s.tone := rfl
@[simp] theorem raise_params (s : State) (f : Fault) (ia op : Word) : (s.raise f ia op).params = s.params := rfl
@[simp] theorem raise_draws (s : State) (f : Fault) (ia op : Word) : (s.raise f ia op).draws = s.draws := rfl
@[simp] theorem raise_slot (s : State) (f : Fault) (ia op : Word) : (s.raise f ia op).slot = s.slot := rfl
@[simp] theorem raise_renders (s : State) (f : Fault) (ia op : Word) : (s.raise f ia op).renders = s.renders := rfl
@[simp] theorem raise_events (s : State) (f : Fault) (ia op : Word) : (s.raise f ia op).events = s.events := rfl

/-! ## flipPixel -/

@[simp] theorem flipPixel_v (s : State) (x y : Int) : (s.flipPixel x y).v = s.v := rfl
@[simp] theorem flipPixel_i (s : State) (x y : Int) : (s.flipPixel x y).i = s.i := rfl
@[simp] theorem flipPixel_pc (s : State) (x y : Int) : (s.flipPixel x y).pc = s.pc := rfl
@[simp] theorem flipPixel_sp (s : State) (x y : Int) : (s.flipPixel x y).sp = s.sp := rfl
@[simp] theorem flipPixel_stack (s : State) (x y : Int) : (s.flipPixel x y).stack = s.stack := rfl
@[simp] theorem flipPixel_dt (s : State) (x y : Int) : (s.flipPixel x y).dt = s.dt := rfl
@[simp] theorem flipPixel_st (s : State) (x y : Int) : (s.flipPixel x y).st = s.st := rfl
@[simp] theorem flipPixel_mem (s : State) (x y : Int) : (s.flipPixel x y).mem = s.mem := rfl
@[simp] theorem flipPixel_fb (s : State) (x y : Int) : (s.flipPixel x y).fb = s.fb.set (fbRow y) ((s.fb[fbRow y]'(fbRow_lt y)) ^^^ BitVec.twoPow 64 (fbCol x)) (fbRow_lt y) := rfl
@[simp] theorem flipPixel_key (s : State) (x y : Int) : (s.flipPixel x y).key = s.key := rfl
@[simp] theorem flipPixel_paused (s : State) (x y : Int) : (s.flipPixel x y).paused = s.paused := rfl
@[simp] theorem flipPixel_waitReg (s : State) (x y : Int) : (s.flipPixel x y).waitReg = s.waitReg := rfl
@[simp] theorem flipPixel_halted (s : State) (x y : Int) : (s.flipPixel x y).halted = s.halted := rfl
@[simp] theorem flipPixel_faultCause (s : State) (x y : Int) : (s.flipPixel x y).faultCause = s.faultCause := rfl
@[simp] theorem flipPixel_faultPc (s : State) (x y : Int) : (s.flipPixel x y).faultPc = s.faultPc := rfl
@[simp] theorem flipPixel_faultOp (s : State) (x y : Int) : (s.flipPixel x y).faultOp = s.faultOp := rfl
@[simp] theorem flipPixel_tone (s : State) (x y : Int) : (s.flipPixel x y).tone = s.tone := rfl
@[simp] theorem flipPixel_params (s : State) (x y : Int) : (s.flipPixel x y).params = s.params := rfl
@[simp] theorem flipPixel_draws (s : State) (x y : Int) : (s.flipPixel x y).draws = s.draws := rfl
@[simp] theorem flipPixel_slot (s : State) (x y : Int) : (s.flipPixel x y).slot = s.slot := rfl
@[simp] theorem flipPixel_renders (s : State) (x y : Int) : (s.flipPixel x y).renders = s.renders := rfl
@[simp] theorem flipPixel_events (s : State) (x y : Int) : (s.flipPixel x y).events = s.events := rfl

/-! ## clearFb -/

@[simp] theorem clearFb_v (s : State) : (s.clearFb).v = s.v := rfl
@[simp] theorem clearFb_i (s : State) : (s.clearFb).i = s.i := rfl
@[simp] theorem clearFb_pc (s : State) : (s.clearFb).pc = s.pc := rfl
@[simp] theorem clearFb_sp (s : State) : (s.clearFb).sp = s.sp := rfl
@[simp] theorem clearFb_stack (s : State) : (s.clearFb).stack = s.stack := rfl
@[simp] theorem clearFb_dt (s : State) : (s.clearFb).dt = s.dt := rfl
@[simp] theorem clearFb_st (s : State) : (s.clearFb).st = s.st := rfl
@[simp] theorem clearFb_mem (s : State) : (s.clearFb).mem = s.mem := rfl
@[simp] theorem clearFb_fb (s : State) : (s.clearFb).fb = Vector.replicate 32 0 := rfl
@[simp] theorem clearFb_key (s : State) : (s.clearFb).key = s.key := rfl
@[simp] theorem clearFb_paused (s : State) : (s.clearFb).paused = s.paused := rfl
@[simp] theorem clearFb_waitReg (s : State) : (s.clearFb).waitReg = s.waitReg := rfl
@[simp] theorem clearFb_halted (s : State) : (s.clearFb).halted = s.halted := rfl
@[simp] theorem clearFb_faultCause (s : State) : (s.clearFb).faultCause = s.faultCause := rfl
@[simp] theorem clearFb_faultPc (s : State) : (s.clearFb).faultPc = s.faultPc := rfl
@[simp] theorem clearFb_faultOp (s : State) : (s.clearFb).faultOp = s.faultOp := rfl
@[simp] theorem clearFb_tone (s : State) : (s.clearFb).tone = s.tone := rfl
@[simp] theorem clearFb_params (s : State) : (s.clearFb).params = s.params := rfl
@[simp] theorem clearFb_draws (s : State) : (s.clearFb).draws = s.draws := rfl
@[simp] theorem clearFb_slot (s : State) : (s.clearFb).slot = s.slot := rfl
@[simp] theorem clearFb_renders (s : State) : (s.clearFb).renders = s.renders := rfl
@[simp] theorem clearFb_events (s : State) : (s.clearFb).events = s.events := rfl

/-! ## awaitKey -/

@[simp] theorem awaitKey_v (s : State) (x : RegIdx) : (s.awaitKey x).v = s.v := rfl
@[simp] theorem awaitKey_i (s : State) (x : RegIdx) : (s.awaitKey x).i = s.i := rfl
@[simp] theorem awaitKey_pc (s : State) (x : RegIdx) : (s.awaitKey x).pc = s.pc := rfl
@[simp] theorem awaitKey_sp (s : State) (x : RegIdx) : (s.awaitKey x).sp = s.sp := rfl
@[simp] theorem awaitKey_stack (s : State) (x : RegIdx) : (s.awaitKey x).stack = s.stack := rfl
@[simp] theorem awaitKey_dt (s : State) (x : RegIdx) : (s.awaitKey x).dt = s.dt := rfl
@[simp] theorem awaitKey_st (s : State) (x : RegIdx) : (s.awaitKey x).st = s.st := rfl
@[simp] theorem awaitKey_mem (s : State) (x : RegIdx) : (s.awaitKey x).mem = s.mem := rfl
@[simp] theorem awaitKey_fb (s : State) (x : RegIdx) : (s.awaitKey x).fb = s.fb := rfl
@[simp] theorem awaitKey_key (s : State) (x : RegIdx) : (s.awaitKey x).key = s.key := rfl
@[simp] theorem awaitKey_paused (s : State) (x : RegIdx) : (s.awaitKey x).paused = true := rfl
@[simp] theorem awaitKey_waitReg (s : State) (x : RegIdx) : (s.awaitKey x).waitReg = x := rfl
@[simp] theorem awaitKey_halted (s : State) (x : RegIdx) : (s.awaitKey x).halted = s.halted := rfl
@[simp] theorem awaitKey_faultCause (s : State) (x : RegIdx) : (s.awaitKey x).faultCause = s.faultCause := rfl
@[simp] theorem awaitKey_faultPc (s : State) (x : RegIdx) : (s.awaitKey x).faultPc = s.faultPc := rfl
@[simp] theorem awaitKey_faultOp (s : State) (x : RegIdx) : (s.awaitKey x).faultOp = s.faultOp := rfl
@[simp] theorem awaitKey_tone (s : State) (x : RegIdx) : (s.awaitKey x).tone = s.tone := rfl
@[simp] theorem awaitKey_params (s : State) (x : RegIdx) : (s.awaitKey x).params = s.params := rfl
@[simp] theorem awaitKey_draws (s : State) (x : RegIdx) : (s.awaitKey x).draws = s.draws := rfl
@[simp] theorem awaitKey_slot (s : State) (x : RegIdx) : (s.awaitKey x).slot = s.slot := rfl
@[simp] theorem awaitKey_renders (s : State) (x : RegIdx) : (s.awaitKey x).renders = s.renders := rfl
@[simp] theorem awaitKey_events (s : State) (x : RegIdx) : (s.awaitKey x).events = s.events := rfl

/-! ## setKey -/

@[simp] theorem setKey_v (s : State) (k : KeyCode) (b : Bool) : (s.setKey k b).v = s.v := rfl
@[simp] theorem setKey_i (s : State) (k : KeyCode) (b : Bool) : (s.setKey k b).i = s.i := rfl
@[simp] theorem setKey_pc (s : State) (k : KeyCode) (b : Bool) : (s.setKey k b).pc = s.pc := rfl
@[simp] theorem setKey_sp (s : State) (k : KeyCode) (b : Bool) : (s.setKey k b).sp = s.sp := rfl
@[simp] theorem setKey_stack (s : State) (k : KeyCode) (b : Bool) : (s.setKey k b).stack = s.stack := rfl
@[simp] theorem setKey_dt (s : State) (k : KeyCode) (b : Bool) : (s.setKey k b).dt = s.dt := rfl
@[simp] theorem setKey_st (s : State) (k : KeyCode) (b : Bool) : (s.setKey k b).st = s.st := rfl
@[simp] theorem setKey_mem (s : State) (k : KeyCode) (b : Bool) : (s.setKey k b).mem = s.mem := rfl
@[simp] theorem setKey_fb (s : State) (k : KeyCode) (b : Bool) : (s.setKey k b).fb = s.fb := rfl
@[simp] theorem setKey_key (s : State) (k : KeyCode) (b : Bool) : (s.setKey k b).key = s.key.set k.toNat b k.isLt := rfl
@[simp] theorem setKey_paused (s : State) (k : KeyCode) (b : Bool) : (s.setKey k b).paused = s.paused := rfl
@[simp] theorem setKey_waitReg (s : State) (k : KeyCode) (b : Bool) : (s.setKey k b).waitReg = s.waitReg := rfl
@[simp] theorem setKey_halted (s : State) (k : KeyCode) (b : Bool) : (s.setKey k b).halted = s.halted := rfl
@[simp] theorem setKey_faultCause (s : State) (k : KeyCode) (b : Bool) : (s.setKey k b).faultCause = s.faultCause := rfl
@[simp] theorem setKey_faultPc (s : State) (k : KeyCode) (b : Bool) : (s.setKey k b).faultPc = s.faultPc := rfl
@[simp] theorem setKey_faultOp (s : State) (k : KeyCode) (b : Bool) : (s.setKey k b).faultOp = s.faultOp := rfl
@[simp] theorem setKey_tone (s : State) (k : KeyCode) (b : Bool) : (s.setKey k b).tone = s.tone := rfl
@[simp] theorem setKey_params (s : State) (k : KeyCode) (b : Bool) : (s.setKey k b).params = s.params := rfl
@[simp] theorem setKey_draws (s : State) (k : KeyCode) (b : Bool) : (s.setKey k b).draws = s.draws := rfl
@[simp] theorem setKey_slot (s : State) (k : KeyCode) (b : Bool) : (s.setKey k b).slot = s.slot := rfl
@[simp] theorem setKey_renders (s : State) (k : KeyCode) (b : Bool) : (s.setKey k b).renders = s.renders := rfl
@[simp] theorem setKey_events (s : State) (k : KeyCode) (b : Bool) : (s.setKey k b).events = s.events := rfl

/-! ## refreshTone -/

@[simp] theorem refreshTone_v (s : State) : (s.refreshTone).v = s.v := rfl
@[simp] theorem refreshTone_i (s : State) : (s.refreshTone).i = s.i := rfl
@[simp] theorem refreshTone_pc (s : State) : (s.refreshTone).pc = s.pc := rfl
@[simp] theorem refreshTone_sp (s : State) : (s.refreshTone).sp = s.sp := rfl
@[simp] theorem refreshTone_stack (s : State) : (s.refreshTone).stack = s.stack := rfl
@[simp] theorem refreshTone_dt (s : State) : (s.refreshTone).dt = s.dt := rfl
@[simp] theorem refreshTone_st (s : State) : (s.refreshTone).st = s.st := rfl
@[simp] theorem refreshTone_mem (s : State) : (s.refreshTone).mem = s.mem := rfl
@[simp] theorem refreshTone_fb (s : State) : (s.refreshTone).fb = s.fb := rfl
@[simp] theorem refreshTone_key (s : State) : (s.refreshTone).key = s.key := rfl
@[simp] theorem refreshTone_paused (s : State) : (s.refreshTone).paused = s.paused := rfl
@[simp] theorem refreshTone_waitReg (s : State) : (s.refreshTone).waitReg = s.waitReg := rfl
@[simp] theorem refreshTone_halted (s : State) : (s.refreshTone).halted = s.halted := rfl
@[simp] theorem refreshTone_faultCause (s : State) : (s.refreshTone).faultCause = s.faultCause := rfl
@[simp] theorem refreshTone_faultPc (s : State) : (s.refreshTone).faultPc = s.faultPc := rfl
@[simp] theorem refreshTone_faultOp (s : State) : (s.refreshTone).faultOp = s.faultOp := rfl
@[simp] theorem refreshTone_tone (s : State) : (s.refreshTone).tone = decide (s.st ≠ 0) := rfl
@[simp] theorem refreshTone_params (s : State) : (s.refreshTone).params = s.params := rfl
@[simp] theorem refreshTone_draws (s : State) : (s.refreshTone).draws = s.draws := rfl
@[simp] theorem refreshTone_slot (s : State) : (s.refreshTone).slot = s.slot := rfl
@[simp] theorem refreshTone_renders (s : State) : (s.refreshTone).renders = s.renders := rfl
@[simp] theorem refreshTone_events (s : State) : (s.refreshTone).events = s.events := rfl

/-! ## fireRender -/

@[simp] theorem fireRender_v (s : State) : (s.fireRender).v = s.v := rfl
@[simp] theorem fireRender_i (s : State) : (s.fireRender).i = s.i := rfl
@[simp] theorem fireRender_pc (s : State) : (s.fireRender).pc = s.pc := rfl
@[simp] theorem fireRender_sp (s : State) : (s.fireRender).sp = s.sp := rfl
@[simp] theorem fireRender_stack (s : State) : (s.fireRender).stack = s.stack := rfl
@[simp] theorem fireRender_dt (s : State) : (s.fireRender).dt = s.dt := rfl
@[simp] theorem fireRender_st (s : State) : (s.fireRender).st = s.st := rfl
@[simp] theorem fireRender_mem (s : State) : (s.fireRender).mem = s.mem := rfl
@[simp] theorem fireRender_fb (s : State) : (s.fireRender).fb = s.fb := rfl
@[simp] theorem fireRender_key (s : State) : (s.fireRender).key = s.key := rfl
@[simp] theorem fireRender_paused (s : State) : (s.fireRender).paused = s.paused := rfl
@[simp] theorem fireRender_waitReg (s : State) : (s.fireRender).waitReg = s.waitReg := rfl
@[simp] theorem fireRender_halted (s : State) : (s.fireRender).halted = s.halted := rfl
@[simp] theorem fireRender_faultCause (s : State) : (s.fireRender).faultCause = s.faultCause := rfl
@[simp] theorem fireRender_faultPc (s : State) : (s.fireRender).faultPc = s.faultPc := rfl
@[simp] theorem fireRender_faultOp (s : State) : (s.fireRender).faultOp = s.faultOp := rfl
@[simp] theorem fireRender_tone (s : State) : (s.fireRender).tone = s.tone := rfl
@[simp] theorem fireRender_params (s : State) : (s.fireRender).params = s.params := rfl
@[simp] theorem fireRender_draws (s : State) : (s.fireRender).draws = s.draws := rfl
@[simp] theorem fireRender_slot (s : State) : (s.fireRender).slot = s.slot := rfl
@[simp] theorem fireRender_renders (s : State) : (s.fireRender).renders = s.renders + 1 := rfl
@[simp] theorem fireRender_events (s : State) : (s.fireRender).events = s.events := rfl

/-! ## setSlot -/

@[simp] theorem setSlot_v (s : State) (n : Nat) : (s.setSlot n).v = s.v := rfl
@[simp] theorem setSlot_i (s : State) (n : Nat) : (s.setSlot n).i = s.i := rfl
@[simp] theorem setSlot_pc (s : State) (n : Nat) : (s.setSlot n).pc = s.pc := rfl
@[simp] theorem setSlot_sp (s : State) (n : Nat) : (s.setSlot n).sp = s.sp := rfl
@[simp] theorem setSlot_stack (s : State) (n : Nat) : (s.setSlot n).stack = s.stack := rfl
@[simp] theorem setSlot_dt (s : State) (n : Nat) : (s.setSlot n).dt = s.dt := rfl
@[simp] theorem setSlot_st (s : State) (n : Nat) : (s.setSlot n).st = s.st := rfl
@[simp] theorem setSlot_mem (s : State) (n : Nat) : (s.setSlot n).mem = s.mem := rfl
@[simp] theorem setSlot_fb (s : State) (n : Nat) : (s.setSlot n).fb = s.fb := rfl
@[simp] theorem setSlot_key (s : State) (n : Nat) : (s.setSlot n).key = s.key := rfl
@[simp] theorem setSlot_paused (s : State) (n : Nat) : (s.setSlot n).paused = s.paused := rfl
@[simp] theorem setSlot_waitReg (s : State) (n : Nat) : (s.setSlot n).waitReg = s.waitReg := rfl
@[simp] theorem setSlot_halted (s : State) (n : Nat) : (s.setSlot n).halted = s.halted := rfl
@[simp] theorem setSlot_faultCause (s : State) (n : Nat) : (s.setSlot n).faultCause = s.faultCause := rfl
@[simp] theorem setSlot_faultPc (s : State) (n : Nat) : (s.setSlot n).faultPc = s.faultPc := rfl
@[simp] theorem setSlot_faultOp (s : State) (n : Nat) : (s.setSlot n).faultOp = s.faultOp := rfl
@[simp] theorem setSlot_tone (s : State) (n : Nat) : (s.setSlot n).tone = s.tone := rfl
@[simp] theorem setSlot_params (s : State) (n : Nat) : (s.setSlot n).params = s.params := rfl
@[simp] theorem setSlot_draws (s : State) (n : Nat) : (s.setSlot n).draws = s.draws := rfl
@[simp] theorem setSlot_slot (s : State) (n : Nat) : (s.setSlot n).slot = n := rfl
@[simp] theorem setSlot_renders (s : State) (n : Nat) : (s.setSlot n).renders = s.renders := rfl
@[simp] theorem setSlot_events (s : State) (n : Nat) : (s.setSlot n).events = s.events := rfl

end Sys2Proof.Laws
end

