-- ==== Sys2Proof/Laws/Memory.lean ====
section
/-! SUPPORT. Memory: a read after a write, and the canonical form that every memory operation keeps. -/

namespace Sys2Proof.Laws

open Sys2Proof.Machine

/-! ## The list of cells -/

theorem read_filter_ne {a a' : Nat} (h : a' ≠ a) (m : Memory) :
    Memory.read (m.filter (fun c => c.1 != a)) a' = Memory.read m a' := by
  induction m with
  | nil => rfl
  | cons c m ih =>
    by_cases hc : c.1 = a
    · have : ¬ c.1 = a' := fun e => h (e ▸ hc)
      simpa [hc, Memory.read, Ne.symm h] using ih
    · simp [hc, Memory.read, ih]

theorem read_filter_self (a : Nat) (m : Memory) :
    Memory.read (m.filter (fun c => c.1 != a)) a = Memory.unlisted a := by
  induction m with
  | nil => rfl
  | cons c m ih =>
    by_cases hc : c.1 = a
    · simpa [hc] using ih
    · simp [hc, Memory.read, ih]

theorem read_insert_ne {c : Host.Cell} {a' : Nat} (h : a' ≠ c.1) (m : Memory) :
    Memory.read (Memory.insert m c) a' = Memory.read m a' := by
  induction m with
  | nil => simp [Memory.insert, Memory.read, Ne.symm h]
  | cons d m ih =>
    by_cases hd : c.1 < d.1
    · simp [Memory.insert, hd, Memory.read, Ne.symm h]
    · simp [Memory.insert, hd, Memory.read, ih]

theorem read_insert_self {c : Host.Cell} {m : Memory} (h : ∀ d ∈ m, d.1 ≠ c.1) :
    Memory.read (Memory.insert m c) c.1 = c.2 := by
  induction m with
  | nil => simp [Memory.insert, Memory.read]
  | cons d m ih =>
    have hd := h d (by simp)
    have := ih (fun e he => h e (by simp [he]))
    by_cases hlt : c.1 < d.1
    · simp [Memory.insert, hlt, Memory.read]
    · simpa [Memory.insert, hlt, Memory.read, hd] using this

/-- A read after a write to the same address gives the byte written. -/
theorem read_write_same (m : Memory) (a : Nat) (b : Byte) : Memory.read (Memory.write m a b) a = b := by
  unfold Memory.write
  by_cases hb : b = Memory.unlisted a
  · simp [hb, read_filter_self]
  · simpa [hb] using read_insert_self (c := (a, b)) (m := m.filter (fun c => c.1 != a)) (by simp)

/-- A write leaves every other address alone. -/
theorem read_write_other {a a' : Nat} (h : a' ≠ a) (m : Memory) (b : Byte) :
    Memory.read (Memory.write m a b) a' = Memory.read m a' := by
  unfold Memory.write
  by_cases hb : b = Memory.unlisted a
  · simp [hb, read_filter_ne h]
  · simp [hb, read_insert_ne (c := (a, b)) h, read_filter_ne h]

/-! ## The canonical form -/

theorem mem_insert {d c : Host.Cell} {m : Memory} : d ∈ Memory.insert m c ↔ d = c ∨ d ∈ m := by
  induction m with
  | nil => simp [Memory.insert]
  | cons e m ih =>
    by_cases h : c.1 < e.1
    · simp [Memory.insert, h]
    · simp [Memory.insert, h, ih]; tauto

theorem pairwise_insert {c : Host.Cell} {m : Memory} (hm : m.Pairwise (fun c d => c.1 < d.1))
    (hc : ∀ d ∈ m, d.1 ≠ c.1) : (Memory.insert m c).Pairwise (fun c d => c.1 < d.1) := by
  induction m with
  | nil => simp [Memory.insert]
  | cons e m ih =>
    rw [List.pairwise_cons] at hm
    have he := hc e (by simp)
    by_cases h : c.1 < e.1
    · rw [Memory.insert, if_pos h, List.pairwise_cons, List.pairwise_cons]
      exact ⟨List.forall_mem_cons.2 ⟨h, fun d hd => h.trans (hm.1 d hd)⟩, hm⟩
    · simp only [Memory.insert, h, if_false, List.pairwise_cons]
      refine ⟨fun d hd => ?_, ih hm.2 fun d hd => hc d (by simp [hd])⟩
      rcases mem_insert.1 hd with rfl | hd
      · omega
      · exact hm.1 d hd

/-- A write below 4096 keeps the canonical form. -/
theorem write_keeps_wf {m : Memory} (hm : Memory.wf m) {a : Nat} (ha : a < memSize) (b : Byte) :
    Memory.wf (Memory.write m a b) := by
  have hsub : (m.filter (fun c => c.1 != a)).Pairwise (fun c d => c.1 < d.1) := hm.1.filter _
  have hall : ∀ c ∈ m.filter (fun c => c.1 != a), c.1 < memSize ∧ c.2 ≠ Memory.unlisted c.1 :=
    fun c hc => hm.2 c (List.mem_filter.1 hc).1
  unfold Memory.write
  by_cases hb : b = Memory.unlisted a
  · simp only [hb, if_true]; exact ⟨hsub, hall⟩
  · simp only [hb, if_false]
    refine ⟨pairwise_insert hsub (by simp), fun c hc => ?_⟩
    rcases mem_insert.1 hc with rfl | hc
    · exact ⟨ha, hb⟩
    · exact hall c hc

/-! ## The access primitives -/

theorem memRead_memWrite (s : State) (a a' : Nat) (b : Byte) :
    (s.memWrite a b).memRead a' = if a' % memSize = a % memSize then b else s.memRead a' := by
  by_cases h : a' % memSize = a % memSize
  · simp [State.memRead, h, read_write_same]
  · simp [State.memRead, h, read_write_other h]

theorem memRead_of_mem_eq {s t : State} (h : t.mem = s.mem) (a : Nat) : t.memRead a = s.memRead a := by
  simp [State.memRead, h]

theorem memWrite_keeps_wf {s : State} (h : Memory.wf s.mem) (a : Nat) (b : Byte) :
    Memory.wf (s.memWrite a b).mem :=
  write_keeps_wf h (Nat.mod_lt _ (by decide)) b

theorem memWriteBytes_keeps_wf {s : State} (h : Memory.wf s.mem) (a : Nat) (bs : List Byte) :
    Memory.wf (s.memWriteBytes a bs).mem := by
  induction bs generalizing s a with
  | nil => exact h
  | cons b bs ih => exact ih (memWrite_keeps_wf h a b) (a + 1)

/-- What storing bytes can do: it changes memory alone. -/
theorem memWriteBytes_eq (s : State) (a : Nat) (bs : List Byte) :
    s.memWriteBytes a bs = { s with mem := (s.memWriteBytes a bs).mem } := by
  induction bs generalizing s a with
  | nil => rfl
  | cons b bs ih =>
    show (s.memWrite a b).memWriteBytes (a + 1) bs = _
    rw [ih]; rfl

/-- What memory reads as after storing bytes that do not meet themselves around the address space. -/
theorem memRead_memWriteBytes {s : State} {a : Nat} {bs : List Byte} (h : bs.length ≤ memSize) (a' : Nat) :
    (s.memWriteBytes a bs).memRead a' =
      bs.getD ((a' + memSize - a % memSize) % memSize) (s.memRead a') := by
  induction bs generalizing s a with
  | nil => rfl
  | cons b bs ih =>
    simp only [List.length_cons] at h
    show ((s.memWrite a b).memWriteBytes (a + 1) bs).memRead a' = _
    rw [ih (by omega), memRead_memWrite]
    by_cases he : a' % memSize = a % memSize
    · rw [if_pos he]
      simp only [memSize] at h he ⊢
      have h0 : (a' + 4096 - a % 4096) % 4096 = 0 := by omega
      have h1 : bs.length ≤ (a' + 4096 - (a + 1) % 4096) % 4096 := by omega
      rw [h0, List.getD_cons_zero, List.getD_eq_default _ _ h1]
    · rw [if_neg he]
      simp only [memSize] at he ⊢
      have h1 : (a' + 4096 - a % 4096) % 4096 = (a' + 4096 - (a + 1) % 4096) % 4096 + 1 := by omega
      rw [h1, List.getD_cons_succ]

end Sys2Proof.Laws
end

