-- ==== Sys2Proof/Laws/Ops.lean ====
section
/-! SUPPORT. What each shared operation over registers, keys, stack, framebuffer and timers can do, said once. -/

namespace Sys2Proof.Laws

open Sys2Proof.Machine

/-! ## Registers and flags -/

theorem reg_setReg (s : State) (x y : RegIdx) (b : Byte) :
    (s.setReg x b).reg y = if x = y then b else s.reg y := by
  simp [State.reg, State.setReg, Vector.getElem_set, BitVec.toNat_inj]

@[simp] theorem reg_setReg_self (s : State) (x : RegIdx) (b : Byte) : (s.setReg x b).reg x = b := by
  simp [reg_setReg]

theorem reg_setReg_ne (s : State) {x y : RegIdx} (b : Byte) (h : y ≠ x) : (s.setReg x b).reg y = s.reg y := by
  simp [reg_setReg, Ne.symm h]

theorem reg_of_v_eq {s t : State} (h : t.v = s.v) (x : RegIdx) : t.reg x = s.reg x := by
  simp [State.reg, h]

/-- R100: VF ends as the flag, whatever `x` is. -/
theorem setResult_vf (s : State) (x : RegIdx) (r : Byte) (f : Bool) : (s.setResult x r f).reg vf = flagByte f :=
  reg_setReg_self ..

/-- R100: the result stays where the destination is not VF. -/
theorem setResult_reg (s : State) {x : RegIdx} (r : Byte) (f : Bool) (h : x ≠ vf) :
    (s.setResult x r f).reg x = r := by
  simp [State.setResult, reg_setReg_ne _ _ h]

theorem flagByte_toNat (f : Bool) : (flagByte f).toNat = if f = true then 1 else 0 := by
  cases f <;> rfl

/-! ## Program counter -/

/-- A conditional skip changes the PC alone. -/
theorem skipIf_eq (s : State) (c : Bool) : s.skipIf c = { s with pc := if c then s.pc + 2 else s.pc } := by
  cases c <;> rfl

/-! ## Stack -/

/-- A push answers below depth 16, and then it has written the free entry and raised SP. -/
theorem push_of_lt {s : State} (w : Word) (h : s.sp.val < 16) :
    s.push w = some { s with stack := s.stack.set s.sp.val w h, sp := ⟨s.sp.val + 1, by omega⟩ } :=
  dif_pos h

/-- At depth 16 there is no push. -/
theorem push_of_full {s : State} (w : Word) (h : s.sp.val = 16) : s.push w = none :=
  dif_neg (by omega)

/-- A pop answers on a stack that is not empty, with the top entry, and lowers SP alone. -/
theorem pop_of_pos {s : State} (h : 0 < s.sp.val) :
    s.pop = some (s.stack[s.sp.val - 1]'(by omega), { s with sp := ⟨s.sp.val - 1, by omega⟩ }) :=
  dif_pos h

/-- An empty stack has no pop. -/
theorem pop_of_empty {s : State} (h : s.sp.val = 0) : s.pop = none :=
  dif_neg (by omega)

/-! ## Keys -/

theorem keyBit_setKey (s : State) (k j : KeyCode) (b : Bool) :
    (s.setKey k b).keyBit j = if k = j then b else s.keyBit j := by
  simp [State.keyBit, State.setKey, Vector.getElem_set, BitVec.toNat_inj]

/-- `KeyDown` of a core that waits for no key sets the bit alone (R164). -/
theorem keyDown_of_running {s : State} (k : KeyCode) (h : s.paused = false) : s.keyDown k = s.setKey k true := by
  simp [State.keyDown, h]

/-- `KeyDown` of a waiting core answers the request (R164). -/
theorem keyDown_of_paused {s : State} (k : KeyCode) (h : s.paused = true) :
    s.keyDown k = { (s.setKey k true).setReg s.waitReg (k.setWidth 8) with paused := false } := by
  simp [State.keyDown, h]

/-! ## Framebuffer -/

theorem fbCol_lt (x : Int) : fbCol x < 64 := by
  unfold fbCol; omega

theorem fbCol_eq_iff (x y : Int) : fbCol x = fbCol y ↔ x % 64 = y % 64 := by
  unfold fbCol; omega

theorem fbRow_eq_iff (x y : Int) : fbRow x = fbRow y ↔ x % 32 = y % 32 := by
  unfold fbRow; omega

/-- A flip inverts the one pixel that the coordinates name (R131). -/
theorem pixel_flipPixel (s : State) (x y x' y' : Int) :
    (s.flipPixel x y).pixel x' y' =
      if fbCol x' = fbCol x ∧ fbRow y' = fbRow y then !s.pixel x' y' else s.pixel x' y' := by
  by_cases hy : fbRow y' = fbRow y
  · by_cases hx : fbCol x' = fbCol x
    · simp [State.pixel, hy, hx, fbCol_lt]
    · simp [State.pixel, hy, hx, BitVec.getLsbD_twoPow, Ne.symm hx]
  · simp [State.pixel, hy, Ne.symm hy]

theorem pixel_of_fb_eq {s t : State} (h : t.fb = s.fb) (x y : Int) : t.pixel x y = s.pixel x y := by
  simp [State.pixel, h]

theorem pixel_clearFb (s : State) (x y : Int) : s.clearFb.pixel x y = false := by
  simp [State.pixel]

/-! ## Timers -/

theorem countDown_toNat (b : Byte) : (countDown b).toNat = b.toNat - 1 := by
  unfold countDown
  split
  · simp_all
  · next h =>
    have : b.toNat ≠ 0 := fun e => h (BitVec.eq_of_toNat_eq (by simpa using e))
    rw [BitVec.toNat_sub]; have := b.isLt; simp; omega

/-- The end of a tick of a paused core leaves the timers (R161, R168). -/
theorem endTick_of_paused {s : State} (h : s.paused = true) :
    s.endTick = { s with tone := decide (s.st ≠ 0), renders := s.renders + 1, slot := 0 } := by
  simp [State.endTick, State.decTimers, h, State.refreshTone, State.fireRender, State.setSlot]

/-- The end of a tick of a core that is not paused: timers, tone, render (R160). -/
theorem endTick_of_running {s : State} (h : s.paused = false) :
    s.endTick = { s with dt := countDown s.dt, st := countDown s.st, tone := decide (countDown s.st ≠ 0),
                         renders := s.renders + 1, slot := 0 } := by
  simp [State.endTick, State.decTimers, h, State.refreshTone, State.fireRender, State.setSlot]

/-- `Reset(image)`: every field but memory is that of reset or a field of the model's own that stays. -/
theorem resetWith_eq (s : State) (image : List Byte) :
    s.resetWith image = { State.reset with
      params := s.params, draws := s.draws, renders := s.renders, events := s.events,
      mem := (s.resetWith image).mem } := by
  unfold State.resetWith
  rw [memWriteBytes_eq, memWriteBytes_eq (State.mk ..)]

/-- `Reset(image)` leaves memory in canonical form. -/
theorem resetWith_keeps_wf (s : State) (image : List Byte) : Memory.wf (s.resetWith image).mem :=
  memWriteBytes_keeps_wf (memWriteBytes_keeps_wf (by simp [State.reset, Memory.wf]) _ _) _ _

end Sys2Proof.Laws
end

