-- ==== Sys2Proof/Laws/Frame.lean ====
section
/-! SUPPORT. Frames: how they compose, and the frame of each shared operation. -/

namespace Sys2Proof.Laws

open Sys2Proof.Machine

/-! ## Composition -/

theorem Part_same_refl (p : Part) (s : State) : p.same s s := by
  cases p <;> rfl

theorem Part_same_trans {p : Part} {s t u : State} (h : p.same s t) (k : p.same t u) : p.same s u := by
  cases p <;> exact Eq.trans k h

theorem frame_refl (ch : Part → Prop) (s : State) : Frame ch s s := fun p _ => Part_same_refl p s

theorem frame_trans {ch : Part → Prop} {s t u : State} (h : Frame ch s t) (k : Frame ch t u) : Frame ch s u :=
  fun p hp => Part_same_trans (h p hp) (k p hp)

theorem frame_mono {ch ch' : Part → Prop} {s t : State} (hc : ∀ p, ch p → ch' p) (h : Frame ch s t) :
    Frame ch' s t :=
  fun p hp => h p fun hq => hp (hc p hq)

/-- A fold whose every step has the frame has the frame. -/
theorem frame_foldl {α : Type} {ch : Part → Prop} {f : State → α → State} {l : List α}
    (h : ∀ s, ∀ a ∈ l, Frame ch s (f s a)) (s : State) : Frame ch s (l.foldl f s) := by
  induction l generalizing s with
  | nil => exact frame_refl ch s
  | cons a l ih =>
    exact frame_trans (h s a (by simp)) (ih (fun s b hb => h s b (by simp [hb])) (f s a))

/-! ## The shared operations -/

theorem frame_setReg (s : State) (x : RegIdx) (b : Byte) : Frame (fun p => p = .reg x) s (s.setReg x b) := by
  intro p hp
  cases p with
  | reg y => exact reg_setReg_ne s b fun e => hp (e ▸ rfl)
  | _ => rfl

theorem frame_setResult (s : State) (x : RegIdx) (r : Byte) (f : Bool) :
    Frame (fun p => p = .reg x ∨ p = .reg vf) s (s.setResult x r f) :=
  frame_trans (frame_mono (fun _ h => .inl h) (frame_setReg s x r))
    (frame_mono (fun _ h => .inr h) (frame_setReg _ vf _))

theorem frame_memWrite (s : State) (a : Nat) (b : Byte) :
    Frame (fun p => p = .byteAt (BitVec.ofNat 12 a)) s (s.memWrite a b) := by
  intro p hp
  cases p with
  | byteAt c =>
    show (s.memWrite a b).memRead c.toNat = _
    rw [memRead_memWrite, if_neg]
    intro e
    refine hp (congrArg Part.byteAt (BitVec.eq_of_toNat_eq ?_))
    have := c.isLt
    simp only [memSize, BitVec.toNat_ofNat] at *
    omega
  | _ => rfl

theorem frame_setPc (s : State) (w : Word) : Frame (fun p => p = .pc) s { s with pc := w } := by
  intro p hp
  cases p with
  | pc => exact absurd rfl hp
  | _ => rfl

theorem frame_setI (s : State) (w : Word) : Frame (fun p => p = .idx) s { s with i := w } := by
  intro p hp
  cases p with
  | idx => exact absurd rfl hp
  | _ => rfl

theorem frame_setKey (s : State) (k : KeyCode) (b : Bool) : Frame (fun p => p = .keyAt k) s (s.setKey k b) := by
  intro p hp
  cases p with
  | keyAt j =>
    show (s.setKey k b).keyBit j = _
    rw [keyBit_setKey, if_neg fun e : k = j => hp (e ▸ rfl)]
  | _ => rfl

theorem frame_flipPixel (s : State) (x y : Int) :
    Frame (fun p => ∃ a b, p = .pixelAt a b) s (s.flipPixel x y) := by
  intro p hp
  cases p with
  | pixelAt a b => exact absurd ⟨a, b, rfl⟩ hp
  | _ => rfl

theorem frame_raise (s : State) (f : Fault) (ia op : Word) : Frame Part.ofFaultRecord s (s.raise f ia op) := by
  intro p hp
  cases p with
  | halted => exact absurd (.inl rfl) hp
  | faultCause => exact absurd (.inr (.inl rfl)) hp
  | faultPc => exact absurd (.inr (.inr (.inl rfl))) hp
  | faultOp => exact absurd (.inr (.inr (.inr rfl))) hp
  | _ => rfl

/-- The fault entry of R154. -/
theorem raise_faulted (s : State) (f : Fault) (ia op : Word) : Faulted f ia op s (s.raise f ia op) :=
  ⟨rfl, rfl, rfl, rfl, frame_raise s f ia op⟩

theorem frame_setSlot (s : State) (n : Nat) : Frame (fun p => p = .slot) s (s.setSlot n) := by
  intro p hp
  cases p with
  | slot => exact absurd rfl hp
  | _ => rfl

end Sys2Proof.Laws
end

