-- ==== Sys2Proof/Laws/Instr.lean ====
section
/-! SUPPORT. What the meanings that loop can do: the draw, the bulk store and the bulk load; and that every instruction
keeps the canonical form of memory. -/

namespace Sys2Proof.Laws

open Sys2Proof.Machine

/-- What every step of a fold keeps, the fold keeps. -/
theorem foldl_keeps {α β γ : Type} (g : γ → β) {f : γ → α → γ} (h : ∀ s a, g (f s a) = g s) (l : List α) (s : γ) :
    g (l.foldl f s) = g s := by
  induction l generalizing s with
  | nil => rfl
  | cons a l ih => rw [List.foldl_cons, ih, h]

/-- Drawing changes registers (VF) and the framebuffer alone (R133). -/
theorem draw_eq (x0 y0 : Nat) (l : List Nat) (s : State) :
    l.foldl (drawRow x0 y0) s =
      { s with v := (l.foldl (drawRow x0 y0) s).v, fb := (l.foldl (drawRow x0 y0) s).fb } := by
  let g : State → State := fun s => { s with v := Vector.replicate 16 0, fb := Vector.replicate 32 0 }
  have h : g (l.foldl (drawRow x0 y0) s) = g s := by
    refine foldl_keeps g (fun s r => ?_) l s
    refine foldl_keeps g (fun s c => ?_) _ s
    unfold drawPixel State.noteCollision
    split
    · dsimp only; split <;> rfl
    · rfl
  have := congrArg (fun z : State => ({ z with
    v := (l.foldl (drawRow x0 y0) s).v, fb := (l.foldl (drawRow x0 y0) s).fb } : State)) h
  exact this

/-- The bulk store changes memory alone (R125, R127). -/
theorem bulkStore_eq (l : List Nat) (s : State) :
    l.foldl storeBulk s = { s with mem := (l.foldl storeBulk s).mem } := by
  let g : State → State := fun s => { s with mem := [] }
  have h : g (l.foldl storeBulk s) = g s := foldl_keeps g (f := storeBulk) (fun _ _ => rfl) l s
  have := congrArg (fun z : State => ({ z with mem := (l.foldl storeBulk s).mem } : State)) h
  exact this

/-- The bulk load changes registers alone (R126, R127). -/
theorem bulkLoad_eq (l : List Nat) (s : State) :
    l.foldl loadBulk s = { s with v := (l.foldl loadBulk s).v } := by
  let g : State → State := fun s => { s with v := Vector.replicate 16 0 }
  have h : g (l.foldl loadBulk s) = g s := foldl_keeps g (f := loadBulk) (fun _ _ => rfl) l s
  have := congrArg (fun z : State => ({ z with v := (l.foldl loadBulk s).v } : State)) h
  exact this

/-- The bulk store changes the bytes it names alone. -/
theorem frame_bulkStore (s : State) (n : Nat) :
    Frame (fun p => ∃ k, k < n ∧ p = .byteAt (s.cellAt k)) s ((List.range n).foldl storeBulk s) := by
  induction n with
  | zero => exact frame_refl _ s
  | succ n ih =>
    simp only [List.range_succ, List.foldl_append, List.foldl_cons, List.foldl_nil]
    refine frame_trans (frame_mono (fun p ⟨k, hk, e⟩ => ⟨k, by omega, e⟩) ih)
      (frame_mono (fun p e => ⟨n, by omega, ?_⟩) (frame_memWrite _ _ _))
    rw [e, bulkStore_eq]; rfl

/-- The bulk load changes the registers it names alone. -/
theorem frame_bulkLoad (s : State) (n : Nat) :
    Frame (fun p => ∃ k, k < n ∧ p = .reg (bulkReg k)) s ((List.range n).foldl loadBulk s) := by
  refine frame_foldl (fun t k hk => frame_mono (fun p e => ⟨k, List.mem_range.1 hk, e⟩) (frame_setReg t (bulkReg k) _)) s

/-- Every instruction keeps the canonical form of memory. -/
theorem exec_keeps_memory_wf {i : Instr} {s t : State} (hm : Memory.wf s.mem) (h : exec i s = .next t) :
    Memory.wf t.mem := by
  cases i with
  | drw x y n => cases h; rw [draw_eq]; exact hm
  | ldVxMem x => cases h; rw [bulkLoad_eq]; exact hm
  | ldB x => cases h; exact memWriteBytes_keeps_wf hm _ _
  | ldMemVx x =>
    cases h
    refine List.foldlRecOn (motive := fun t => Memory.wf t.mem) (List.range (s.bulkCount x)) storeBulk hm ?_
    exact fun t ht k _ => memWrite_keeps_wf ht _ _
  | ret =>
    rcases Nat.eq_zero_or_pos s.sp.val with h0 | h0
    · simp only [exec, execRet, pop_of_empty h0] at h; cases h; exact hm
    · simp only [exec, execRet, pop_of_pos h0] at h; cases h; exact hm
  | call nnn =>
    by_cases h0 : s.sp.val < 16
    · simp only [exec, execCall, push_of_lt _ h0] at h; cases h; exact hm
    · simp only [exec, execCall, push_of_full (s := s) _ (by omega)] at h; cases h; exact hm
  | _ =>
    cases h
    first
      | exact hm
      | (rw [skipIf_eq]; exact hm)

end Sys2Proof.Laws
end

