-- ==== Sys2Proof/Laws/PerInstr.lean ====
section
/-! SUPPORT. Statements made for every instruction, one lemma per constructor. Family `Row`: the word of an instruction
selects the row of R66 that the instruction belongs to, and that row is in the table. -/

namespace Sys2Proof.Laws.Row

/-- `encode i AND mask = match` for the row of `i`, which is one of the 34 rows of R66. -/
def Statement (i : Instr) : Prop := encode i &&& (rowOf i).mask = (rowOf i).matchBits ∧ rowOf i ∈ opcodeTable

theorem cls : Statement .cls :=
  ⟨by decide, by decide⟩

theorem ret : Statement .ret :=
  ⟨by decide, by decide⟩

theorem jp (nnn : Addr12) : Statement (.jp nnn) :=
  ⟨fmtA_masked .., List.mem_map.2 ⟨.jp 0, by decide, rfl⟩⟩

theorem call (nnn : Addr12) : Statement (.call nnn) :=
  ⟨fmtA_masked .., List.mem_map.2 ⟨.call 0, by decide, rfl⟩⟩

theorem seImm (x : RegIdx) (kk : Byte) : Statement (.seImm x kk) :=
  ⟨fmtI_masked .., List.mem_map.2 ⟨.seImm 0 0, by decide, rfl⟩⟩

theorem sneImm (x : RegIdx) (kk : Byte) : Statement (.sneImm x kk) :=
  ⟨fmtI_masked .., List.mem_map.2 ⟨.sneImm 0 0, by decide, rfl⟩⟩

theorem seReg (x y : RegIdx) : Statement (.seReg x y) :=
  ⟨fmtR_masked .., List.mem_map.2 ⟨.seReg 0 0, by decide, rfl⟩⟩

theorem ldImm (x : RegIdx) (kk : Byte) : Statement (.ldImm x kk) :=
  ⟨fmtI_masked .., List.mem_map.2 ⟨.ldImm 0 0, by decide, rfl⟩⟩

theorem addImm (x : RegIdx) (kk : Byte) : Statement (.addImm x kk) :=
  ⟨fmtI_masked .., List.mem_map.2 ⟨.addImm 0 0, by decide, rfl⟩⟩

theorem ldReg (x y : RegIdx) : Statement (.ldReg x y) :=
  ⟨fmtR_masked .., List.mem_map.2 ⟨.ldReg 0 0, by decide, rfl⟩⟩

theorem orReg (x y : RegIdx) : Statement (.orReg x y) :=
  ⟨fmtR_masked .., List.mem_map.2 ⟨.orReg 0 0, by decide, rfl⟩⟩

theorem andReg (x y : RegIdx) : Statement (.andReg x y) :=
  ⟨fmtR_masked .., List.mem_map.2 ⟨.andReg 0 0, by decide, rfl⟩⟩

theorem xorReg (x y : RegIdx) : Statement (.xorReg x y) :=
  ⟨fmtR_masked .., List.mem_map.2 ⟨.xorReg 0 0, by decide, rfl⟩⟩

theorem addReg (x y : RegIdx) : Statement (.addReg x y) :=
  ⟨fmtR_masked .., List.mem_map.2 ⟨.addReg 0 0, by decide, rfl⟩⟩

theorem sub (x y : RegIdx) : Statement (.sub x y) :=
  ⟨fmtR_masked .., List.mem_map.2 ⟨.sub 0 0, by decide, rfl⟩⟩

theorem shr (x y : RegIdx) : Statement (.shr x y) :=
  ⟨fmtR_masked .., List.mem_map.2 ⟨.shr 0 0, by decide, rfl⟩⟩

theorem subn (x y : RegIdx) : Statement (.subn x y) :=
  ⟨fmtR_masked .., List.mem_map.2 ⟨.subn 0 0, by decide, rfl⟩⟩

theorem shl (x y : RegIdx) : Statement (.shl x y) :=
  ⟨fmtR_masked .., List.mem_map.2 ⟨.shl 0 0, by decide, rfl⟩⟩

theorem sneReg (x y : RegIdx) : Statement (.sneReg x y) :=
  ⟨fmtR_masked .., List.mem_map.2 ⟨.sneReg 0 0, by decide, rfl⟩⟩

theorem ldI (nnn : Addr12) : Statement (.ldI nnn) :=
  ⟨fmtA_masked .., List.mem_map.2 ⟨.ldI 0, by decide, rfl⟩⟩

theorem jpV0 (nnn : Addr12) : Statement (.jpV0 nnn) :=
  ⟨fmtA_masked .., List.mem_map.2 ⟨.jpV0 0, by decide, rfl⟩⟩

theorem rnd (x : RegIdx) (kk : Byte) : Statement (.rnd x kk) :=
  ⟨fmtI_masked .., List.mem_map.2 ⟨.rnd 0 0, by decide, rfl⟩⟩

theorem drw (x y : RegIdx) (n : BitVec 4) : Statement (.drw x y n) :=
  ⟨fmtD_masked .., List.mem_map.2 ⟨.drw 0 0 0, by decide, rfl⟩⟩

theorem skp (x : RegIdx) : Statement (.skp x) :=
  ⟨fmtS_masked .., List.mem_map.2 ⟨.skp 0, by decide, rfl⟩⟩

theorem sknp (x : RegIdx) : Statement (.sknp x) :=
  ⟨fmtS_masked .., List.mem_map.2 ⟨.sknp 0, by decide, rfl⟩⟩

theorem ldVxDt (x : RegIdx) : Statement (.ldVxDt x) :=
  ⟨fmtS_masked .., List.mem_map.2 ⟨.ldVxDt 0, by decide, rfl⟩⟩

theorem ldVxK (x : RegIdx) : Statement (.ldVxK x) :=
  ⟨fmtS_masked .., List.mem_map.2 ⟨.ldVxK 0, by decide, rfl⟩⟩

theorem ldDtVx (x : RegIdx) : Statement (.ldDtVx x) :=
  ⟨fmtS_masked .., List.mem_map.2 ⟨.ldDtVx 0, by decide, rfl⟩⟩

theorem ldStVx (x : RegIdx) : Statement (.ldStVx x) :=
  ⟨fmtS_masked .., List.mem_map.2 ⟨.ldStVx 0, by decide, rfl⟩⟩

theorem addI (x : RegIdx) : Statement (.addI x) :=
  ⟨fmtS_masked .., List.mem_map.2 ⟨.addI 0, by decide, rfl⟩⟩

theorem ldF (x : RegIdx) : Statement (.ldF x) :=
  ⟨fmtS_masked .., List.mem_map.2 ⟨.ldF 0, by decide, rfl⟩⟩

theorem ldB (x : RegIdx) : Statement (.ldB x) :=
  ⟨fmtS_masked .., List.mem_map.2 ⟨.ldB 0, by decide, rfl⟩⟩

theorem ldMemVx (x : RegIdx) : Statement (.ldMemVx x) :=
  ⟨fmtS_masked .., List.mem_map.2 ⟨.ldMemVx 0, by decide, rfl⟩⟩

theorem ldVxMem (x : RegIdx) : Statement (.ldVxMem x) :=
  ⟨fmtS_masked .., List.mem_map.2 ⟨.ldVxMem 0, by decide, rfl⟩⟩

end Sys2Proof.Laws.Row
end

