-- ==== Sys2Proof/Laws/Step.lean ====
section
/-! SUPPORT. What a step can do, said once. -/

namespace Sys2Proof.Laws

open Sys2Proof.Machine

/-! ## Instructions -/

/-- No meaning stops: every instruction answers a next state. -/
theorem exec_answers (i : Instr) (s : State) : ∃ t, exec i s = .next t := by
  cases i with
  | ret =>
    rcases Nat.eq_zero_or_pos s.sp.val with h | h
    · exact ⟨_, by simp only [exec, execRet, pop_of_empty h]; rfl⟩
    · exact ⟨_, by simp only [exec, execRet, pop_of_pos h]; rfl⟩
  | call nnn =>
    by_cases h : s.sp.val < 16
    · exact ⟨_, by simp only [exec, execCall, push_of_lt _ h]; rfl⟩
    · exact ⟨_, by simp only [exec, execCall, push_of_full (s := s) _ (by omega)]; rfl⟩
  | _ => exact ⟨_, rfl⟩

/-- `Execute(op, ia)` always answers a next state: a meaning's, or that of the fault entry. -/
theorem execute_answers (op ia : Word) (s : State) : ∃ t, execute op ia s = .next t := by
  unfold execute
  split
  · exact exec_answers ..
  · exact ⟨_, rfl⟩

/-! ## The step -/

@[simp] theorem andThen_next (s : State) (f : State → Result) : andThen (.next s) f = f s := rfl

@[simp] theorem andThen_eq_next {o : Result} {f : State → Result} {t : State} :
    andThen o f = .next t ↔ ∃ s, o = .next s ∧ f s = .next t := by
  cases o <;> simp [andThen]

@[simp] theorem fetchWord_inTick (s : State) (a : Nat) : s.inTick.fetchWord a = s.fetchWord a := by
  unfold State.inTick; split <;> rfl

@[simp] theorem pc_inTick (s : State) : s.inTick.pc = s.pc := by
  unfold State.inTick; split <;> rfl

/-- Taking a `Tick` off the list changes the list alone. -/
theorem inTick_eq (s : State) : s.inTick = { s with events := s.inTick.events } := by
  unfold State.inTick; split <;> rfl

theorem frame_inTick (s : State) : Frame (fun p => p = .events) s s.inTick := by
  rw [inTick_eq]
  intro p hp
  cases p with
  | events => exact absurd rfl hp
  | _ => rfl

/-- Where no other host event is next, the step is a move of the tick. -/
theorem step_of_tickNext {s : State} (h : TickNext s) : step s = tickSlot s.inTick := by
  unfold step move nextEvent State.inTick
  rcases h with h | h | h
  · simp [h]
  · by_cases h0 : s.slot = 0
    · have hs : ({ s with events := s.events.tail } : State) = s := by
        cases s; simp_all
      rw [if_pos h0, if_pos h0, hs, h]
      rfl
    · simp [h0]
  · by_cases h0 : s.slot = 0
    · obtain ⟨es, he⟩ : ∃ es, s.events = .tick :: es := by
        cases hs : s.events with
        | nil => simp [hs] at h
        | cons e es => simp only [hs, List.head?_cons, Option.some.injEq] at h; exact ⟨es, by rw [h]⟩
      simp [h0, he, deliver]
    · simp [h0]

/-- Where another host event is next, the step delivers it. -/
theorem step_of_event {s : State} {e : HostEvent} {es : List HostEvent} (h0 : s.slot = 0) (h : s.events = e :: es) :
    step s = deliver e { s with events := es } := by
  simp [step, move, nextEvent, h0, h]

/-- The three kinds of tick move. -/
theorem tickSlot_of_halted {s : State} (h : s.halted = true) : tickSlot s = .next (s.setSlot 0) := by
  simp [tickSlot, h]

theorem tickSlot_of_paused {s : State} (h : s.halted = false) (hp : s.paused = true) :
    tickSlot s = .next s.endTick := by
  simp [tickSlot, h, hp]

theorem tickSlot_of_running {s : State} (h : s.halted = false) (hp : s.paused = false) :
    tickSlot s = andThen (stepOnce s) fun t => .next (afterSlot t) := by
  simp [tickSlot, h, hp]

/-- Everything a step that answers a next state can have done. -/
theorem step_cases {s t : State} (h : step s = .next t) :
    (∃ image es, s.slot = 0 ∧ s.events = .reset image :: es ∧ image.length ≤ Config.progMax ∧
      t = { s with events := es }.resetWith image) ∨
    (∃ k es, s.slot = 0 ∧ s.events = .keyDown k :: es ∧ t = { s with events := es }.keyDown k) ∨
    (∃ k es, s.slot = 0 ∧ s.events = .keyUp k :: es ∧ t = { s with events := es }.keyUp k) ∨
    (TickNext s ∧ s.halted = true ∧ t = s.inTick.setSlot 0) ∨
    (TickNext s ∧ s.halted = false ∧ s.paused = true ∧ t = s.inTick.endTick) ∨
    (Running s ∧ (∃ i u, decodeWord (s.fetchWord s.pc.toNat) = .ok i ∧ exec i s.inTick.advance = .next u ∧
      t = afterSlot u)) ∨
    (Running s ∧ (∃ e, decodeWord (s.fetchWord s.pc.toNat) = .error e) ∧
      t = afterSlot (s.inTick.advance.raise .invalidOpcode s.pc (s.fetchWord s.pc.toNat))) := by
  by_cases ht : TickNext s
  · rw [step_of_tickNext ht] at h
    have hh : s.inTick.halted = s.halted := by rw [inTick_eq]
    have hp : s.inTick.paused = s.paused := by rw [inTick_eq]
    by_cases hH : s.halted = true
    · rw [tickSlot_of_halted (hh.trans hH)] at h
      cases h
      exact .inr (.inr (.inr (.inl ⟨ht, hH, rfl⟩)))
    · replace hH := Bool.eq_false_iff.2 hH
      by_cases hP : s.paused = true
      · rw [tickSlot_of_paused (hh.trans hH) (hp.trans hP)] at h
        cases h
        exact .inr (.inr (.inr (.inr (.inl ⟨ht, hH, hP, rfl⟩))))
      · replace hP := Bool.eq_false_iff.2 hP
        rw [tickSlot_of_running (hh.trans hH) (hp.trans hP), andThen_eq_next] at h
        obtain ⟨u, hu, hu'⟩ := h
        cases hu'
        simp only [stepOnce, execute, fetchWord_inTick, pc_inTick] at hu
        split at hu
        · next i hd => exact .inr (.inr (.inr (.inr (.inr (.inl ⟨⟨ht, hH, hP⟩, i, u, hd, hu, rfl⟩)))))
        · next e hd => cases hu; exact .inr (.inr (.inr (.inr (.inr (.inr ⟨⟨ht, hH, hP⟩, ⟨e, hd⟩, rfl⟩)))))
  · have h0 : s.slot = 0 := by by_contra hc; exact ht (.inl hc)
    cases he : s.events with
    | nil => exact absurd (.inr (.inl he)) ht
    | cons e es =>
      rw [step_of_event h0 he] at h
      cases e with
      | tick => exact absurd (.inr (.inr (by rw [he]; rfl))) ht
      | reset image =>
        simp only [deliver, resetEvent] at h
        split at h
        · next hl => cases h; exact .inl ⟨image, es, h0, rfl, hl, rfl⟩
        · cases h
      | keyDown k => cases h; exact .inr (.inl ⟨k, es, h0, rfl, rfl⟩)
      | keyUp k => cases h; exact .inr (.inr (.inl ⟨k, es, h0, rfl, rfl⟩))

end Sys2Proof.Laws
end

