-- ==== Sys2Proof/WellFormed.lean ====
section
/-! DEFINITION. Which terms are well formed. The types already bound every operand field of an instruction, and
R65, R64 and R74 make every value of every field legal, so an instruction has no ill-formed term; a host
event and a parameter set do. -/

namespace Sys2Proof

/-- 30_encoding R64, R65, R74: all values of `X`, `Y`, `N`, `KK`, `NNN` are legal in every instruction that has
the field. One line per constructor, so that a new one cannot slip past. -/
def Instr.wf : Instr → Bool
  | .cls => true
  | .ret => true
  | .jp _ => true
  | .call _ => true
  | .seImm _ _ => true
  | .sneImm _ _ => true
  | .seReg _ _ => true
  | .ldImm _ _ => true
  | .addImm _ _ => true
  | .ldReg _ _ => true
  | .orReg _ _ => true
  | .andReg _ _ => true
  | .xorReg _ _ => true
  | .addReg _ _ => true
  | .sub _ _ => true
  | .shr _ _ => true
  | .subn _ _ => true
  | .shl _ _ => true
  | .sneReg _ _ => true
  | .ldI _ => true
  | .jpV0 _ => true
  | .rnd _ _ => true
  | .drw _ _ _ => true
  | .skp _ => true
  | .sknp _ => true
  | .ldVxDt _ => true
  | .ldVxK _ => true
  | .ldDtVx _ => true
  | .ldStVx _ => true
  | .addI _ => true
  | .ldF _ => true
  | .ldB _ => true
  | .ldMemVx _ => true
  | .ldVxMem _ => true

/-- 70 R182: an image longer than 3584 bytes is refused; the other events have no ill-formed term. -/
def HostEvent.wf : HostEvent → Bool
  | .reset image => decide (image.length ≤ Config.progMax)
  | .tick => true
  | .keyDown _ => true
  | .keyUp _ => true

/-- D27: "the rules are written for any `SPEED >= 1`" (log 24). -/
def Params.wf (p : Params) : Bool := decide (1 ≤ p.speed)

end Sys2Proof
end

