-- ==== Sys2Proof/Tests/Slice0.lean ====
section
/-! SUPPORT. The model's own tests. Expected results are the spec's: the words are written out from 30_encoding R61 and R66,
the end states from the vectors of spec/95_test_vectors.md named beside each test. -/

namespace Sys2Proof.Tests

open Sys2Proof.Machine

/-! ## Well-formedness: an ill-formed term for each check -/

theorem test_wf_refuses_long_image : HostEvent.wf (.reset (List.replicate 3585 0)) = false := by
  simp only [HostEvent.wf, Config.progMax, List.length_replicate]; decide

theorem test_wf_takes_full_image : HostEvent.wf (.reset (List.replicate 3584 0)) = true := by
  simp only [HostEvent.wf, Config.progMax, List.length_replicate]; decide

theorem test_wf_refuses_no_speed : Params.wf { defaultParams with speed := 0 } = false := by decide

theorem test_wf_takes_default : Params.wf defaultParams = true := by decide

theorem test_wf_instr : Instr.wf (.drw 0xF 0xF 0xF) = true := by decide

/-! ## Decoding: a word per constructor, its nibbles written out from the encoding (R61, R66) -/

theorem test_decode_cls : decodeWord 0b0000000011100000#16 = .ok (.cls) := by decide
theorem test_decode_ret : decodeWord 0b0000000011101110#16 = .ok (.ret) := by decide
theorem test_decode_jp : decodeWord 0b0001101010111100#16 = .ok (.jp 0xABC) := by decide
theorem test_decode_call : decodeWord 0b0010001011110000#16 = .ok (.call 0x2F0) := by decide
theorem test_decode_se_imm : decodeWord 0b0011101001000010#16 = .ok (.seImm 0xA 0x42) := by decide
theorem test_decode_sne_imm : decodeWord 0b0100101101000011#16 = .ok (.sneImm 0xB 0x43) := by decide
theorem test_decode_se_reg : decodeWord 0b0101101010110000#16 = .ok (.seReg 0xA 0xB) := by decide
theorem test_decode_ld_imm : decodeWord 0b0110111111111110#16 = .ok (.ldImm 0xF 0xFE) := by decide
theorem test_decode_add_imm : decodeWord 0b0111010100000001#16 = .ok (.addImm 0x5 0x01) := by decide
theorem test_decode_ld_reg : decodeWord 0b1000000100100000#16 = .ok (.ldReg 1 2) := by decide
theorem test_decode_or : decodeWord 0b1000001101000001#16 = .ok (.orReg 3 4) := by decide
theorem test_decode_and : decodeWord 0b1000010101100010#16 = .ok (.andReg 5 6) := by decide
theorem test_decode_xor : decodeWord 0b1000011110000011#16 = .ok (.xorReg 7 8) := by decide
theorem test_decode_add_reg : decodeWord 0b1000100110100100#16 = .ok (.addReg 9 0xA) := by decide
theorem test_decode_sub : decodeWord 0b1000101111000101#16 = .ok (.sub 0xB 0xC) := by decide
theorem test_decode_shr : decodeWord 0b1000010001010110#16 = .ok (.shr 4 5) := by decide
theorem test_decode_subn : decodeWord 0b1000110111100111#16 = .ok (.subn 0xD 0xE) := by decide
theorem test_decode_shl : decodeWord 0b1000111100011110#16 = .ok (.shl 0xF 1) := by decide
theorem test_decode_sne_reg : decodeWord 0b1001110011010000#16 = .ok (.sneReg 0xC 0xD) := by decide
theorem test_decode_ld_i : decodeWord 0b1010111111101101#16 = .ok (.ldI 0xFED) := by decide
theorem test_decode_jp_v0 : decodeWord 0b1011000100100011#16 = .ok (.jpV0 0x123) := by decide
theorem test_decode_rnd : decodeWord 0b1100001100001111#16 = .ok (.rnd 3 0x0F) := by decide
theorem test_decode_drw : decodeWord 0b1101000100101111#16 = .ok (.drw 1 2 0xF) := by decide
theorem test_decode_skp : decodeWord 0b1110001010011110#16 = .ok (.skp 2) := by decide
theorem test_decode_sknp : decodeWord 0b1110001110100001#16 = .ok (.sknp 3) := by decide
theorem test_decode_ld_vx_dt : decodeWord 0b1111000100000111#16 = .ok (.ldVxDt 1) := by decide
theorem test_decode_ld_vx_k : decodeWord 0b1111001000001010#16 = .ok (.ldVxK 2) := by decide
theorem test_decode_ld_dt_vx : decodeWord 0b1111001100010101#16 = .ok (.ldDtVx 3) := by decide
theorem test_decode_ld_st_vx : decodeWord 0b1111010000011000#16 = .ok (.ldStVx 4) := by decide
theorem test_decode_add_i : decodeWord 0b1111010100011110#16 = .ok (.addI 5) := by decide
theorem test_decode_ld_f : decodeWord 0b1111011000101001#16 = .ok (.ldF 6) := by decide
theorem test_decode_ld_b : decodeWord 0b1111011100110011#16 = .ok (.ldB 7) := by decide
theorem test_decode_ld_mem_vx : decodeWord 0b1111100001010101#16 = .ok (.ldMemVx 8) := by decide
theorem test_decode_ld_vx_mem : decodeWord 0b1111100101100101#16 = .ok (.ldVxMem 9) := by decide

/-- The words of Part B7 of spec/95, each in one of the classes of R68. -/
theorem test_decode_invalid :
    decodeWord 0x0000#16 = .error (.zeroFamily 0x0000) ∧ decodeWord 0x00E1#16 = .error (.zeroFamily 0x00E1) ∧
    decodeWord 0x0123#16 = .error (.zeroFamily 0x0123) ∧ decodeWord 0x5121#16 = .error (.skipNibble 0x5121) ∧
    decodeWord 0x912F#16 = .error (.skipNibble 0x912F) ∧ decodeWord 0x8128#16 = .error (.aluNibble 0x8128) ∧
    decodeWord 0x812F#16 = .error (.aluNibble 0x812F) ∧ decodeWord 0xE29F#16 = .error (.keyByte 0xE29F) ∧
    decodeWord 0xF275#16 = .error (.miscByte 0xF275) ∧ decodeWord 0xFFFF#16 = .error (.miscByte 0xFFFF) := by
  decide

/-- 20_memory R44: the byte at the lower address is the high-order one. -/
theorem test_decode_bytes : decode [0x60, 0x0A, 0x61, 0x05] = .ok (.ldImm 0 0x0A, [0x61, 0x05]) := by decide

theorem test_decode_truncated : decode [0x60] = .error .truncated := by decide

theorem test_table_word : decodeTableWord 16 0x8014 = some (.addReg 0 1) ∧ decodeTableWord 16 0x5121 = none := by
  decide

/-! ## Building small states, and asking one step -/

/-- The start state of the vectors with `PC` at an address. -/
def startAt (pc : Word) : State := { State.reset with pc := pc }

/-- The start state of most vectors: `PC = 0x0200`. -/
abbrev start : State := startAt 0x200

/-- `SP` at a depth. -/
def depth (s : State) (n : Fin 17) : State := { s with sp := n }

/-- One stack entry. -/
def entry (s : State) (j : Fin 16) (a : Word) : State := { s with stack := s.stack.set j.val a j.isLt }

/-- `I` at an address. -/
def index (s : State) (a : Word) : State := s.setI a

/-- Both timers. -/
def timers (s : State) (dt st : Byte) : State := { s with dt := dt, st := st }

/-- A core that waits for a key. -/
def waiting (s : State) (x : RegIdx) : State := s.awaitKey x

/-- A halted core. -/
def stopped (s : State) : State := s.raise .stackOverflow 0x200 0x2300

/-- The host's events to come. -/
def hosted (s : State) (es : List HostEvent) : State := { s with events := es }

/-- The inclusive reading of FX55 and FX65 (R124). -/
def inclusive (s : State) : State := { s with params := { s.params with bulkInclusive := true } }

/-- The step answers a next state, and it has this property. -/
def stepsTo (s : State) (p : State → Bool) : Bool :=
  match step s with
  | .next t => p t
  | .fault _ => false
  | .refused _ => false

/-- The same, with a word placed where the step fetches. -/
def does (w : Nat) (s : State) (p : State → Bool) : Bool := stepsTo (s.withFetchWord 16 w) p

/-- The fault record of R154. -/
def record (t : State) (cause : BitVec 2) (ia op : Word) : Bool :=
  t.halted && t.faultCause == cause && t.faultPc == ia && t.faultOp == op

/-! ## One step of each instruction -/

/-- T1, with `PC` given all 12 bits -/
theorem test_jp : does 0x1ABC (start) (fun t => t.pc == 0x0ABC) = true := by decide

/-- T3 -/
theorem test_jp_odd : does 0x1203 (start) (fun t => t.pc == 0x0203) = true := by decide

/-- T5 -/
theorem test_call_sixteenth : does 0x2300 (depth start 15) (fun t => t.pc == 0x0300 && t.sp.val == 16 && t.stack[15] == 0x0202) = true := by decide

/-- T6 -/
theorem test_call_overflows : does 0x2300 (depth start 16) (fun t => t.pc == 0x0202 && t.sp.val == 16 && record t 2 0x0200 0x2300) = true := by decide

/-- T8b -/
theorem test_ret : does 0x00EE (entry (depth (startAt 0x300) 16) 15 0x1000) (fun t => t.pc == 0x1000 && t.sp.val == 15) = true := by decide

/-- T8 -/
theorem test_ret_underflows : does 0x00EE (start) (fun t => t.pc == 0x0202 && t.sp.val == 0 && record t 3 0x0200 0x00EE) = true := by decide

/-- T9 -/
theorem test_se_imm : does 0x3A42 (start.setReg 0xA 0x42) (fun t => t.pc == 0x0204) = true := by decide

/-- T21 -/
theorem test_se_imm_at_top : does 0x3000 (startAt 0xFFE) (fun t => t.pc == 0x1002) = true := by decide

/-- T12 -/
theorem test_sne_imm : does 0x4A42 (start.setReg 0xA 0x41) (fun t => t.pc == 0x0204) = true := by decide

/-- T11 -/
theorem test_sne_imm_equal : does 0x4A42 (start.setReg 0xA 0x42) (fun t => t.pc == 0x0202) = true := by decide

/-- T13 -/
theorem test_se_reg : does 0x5AB0 ((start.setReg 0xA 7).setReg 0xB 7) (fun t => t.pc == 0x0204) = true := by decide

/-- T14 -/
theorem test_se_reg_differs : does 0x5AB0 ((start.setReg 0xA 7).setReg 0xB 8) (fun t => t.pc == 0x0202) = true := by decide

/-- T15 -/
theorem test_sne_reg : does 0x9AB0 ((start.setReg 0xA 7).setReg 0xB 8) (fun t => t.pc == 0x0204) = true := by decide

/-- T18 -/
theorem test_sne_reg_same : does 0x9AA0 (start.setReg 0xA 7) (fun t => t.pc == 0x0202) = true := by decide

/-- T20 -/
theorem test_jp_v0 : does 0xBFFF (start.setReg 0 0xFF) (fun t => t.pc == 0x10FE) = true := by decide

/-- T23 -/
theorem test_fetch_wraps : does 0x6012 (startAt 0xFFF) (fun t => t.reg 0 == 0x12 && t.pc == 0x1001) = true := by decide

/-- T25 -/
theorem test_pc_wraps : does 0x6A01 (startAt 0xFFFE) (fun t => t.reg 0xA == 0x01 && t.pc == 0x0000) = true := by decide

/-- I2 -/
theorem test_add_imm_no_flag : does 0x7001 (start.setReg 0 0xFF) (fun t => t.reg 0 == 0 && t.reg 0xF == 0 && t.pc == 0x0202) = true := by decide

/-- I3 -/
theorem test_add_imm_vf : does 0x7F02 (start.setReg 0xF 0xFF) (fun t => t.reg 0xF == 1) = true := by decide

/-- A1 -/
theorem test_ld_reg : does 0x8120 ((start.setReg 1 0x11).setReg 2 0x5A) (fun t => t.reg 1 == 0x5A && t.reg 2 == 0x5A) = true := by decide

/-- A2 -/
theorem test_or : does 0x8121 (((start.setReg 1 0xF0).setReg 2 0x0F).setReg 0xF 0x77) (fun t => t.reg 1 == 0xFF && t.reg 0xF == 0x77) = true := by decide

/-- A3 -/
theorem test_and : does 0x8122 (((start.setReg 1 0xF0).setReg 2 0x3C).setReg 0xF 0x77) (fun t => t.reg 1 == 0x30 && t.reg 0xF == 0x77) = true := by decide

/-- A4 -/
theorem test_xor : does 0x8123 (((start.setReg 1 0xF0).setReg 2 0x3C).setReg 0xF 0x77) (fun t => t.reg 1 == 0xCC && t.reg 0xF == 0x77) = true := by decide

/-- A7 -/
theorem test_add_carry : does 0x8014 ((start.setReg 0 0xFF).setReg 1 1) (fun t => t.reg 0 == 0 && t.reg 0xF == 1) = true := by decide

/-- A12 -/
theorem test_add_into_vf : does 0x8F14 ((start.setReg 0xF 0x10).setReg 1 0x20) (fun t => t.reg 0xF == 0) = true := by decide

/-- A15 -/
theorem test_sub_below : does 0x8015 (((start.setReg 0 5).setReg 1 0xA).setReg 0xF 1) (fun t => t.reg 0 == 0xFB && t.reg 0xF == 0) = true := by decide

/-- A16 -/
theorem test_sub_equal : does 0x8015 (((start.setReg 0 0x33).setReg 1 0x33).setReg 0xF 1) (fun t => t.reg 0 == 0 && t.reg 0xF == 0) = true := by decide

/-- A23 -/
theorem test_shr : does 0x8456 ((start.setReg 4 7).setReg 5 0xEE) (fun t => t.reg 4 == 3 && t.reg 0xF == 1 && t.reg 5 == 0xEE) = true := by decide

/-- A27 -/
theorem test_shr_vf : does 0x8F06 (start.setReg 0xF 2) (fun t => t.reg 0xF == 0) = true := by decide

/-- A21 -/
theorem test_subn : does 0x8017 ((start.setReg 0 5).setReg 1 0xA) (fun t => t.reg 0 == 5 && t.reg 0xF == 1) = true := by decide

/-- A22 -/
theorem test_subn_equal : does 0x8017 (((start.setReg 0 0x33).setReg 1 0x33).setReg 0xF 1) (fun t => t.reg 0 == 0 && t.reg 0xF == 0) = true := by decide

/-- A28 -/
theorem test_shl : does 0x845E ((start.setReg 4 0x81).setReg 5 1) (fun t => t.reg 4 == 2 && t.reg 0xF == 1) = true := by decide

/-- A32 -/
theorem test_shl_vf : does 0x8F0E (start.setReg 0xF 0x41) (fun t => t.reg 0xF == 0) = true := by decide

/-- M1 -/
theorem test_ld_i : does 0xAFFF (index start 0x1234) (fun t => t.i == 0x0FFF) = true := by decide

/-- M4 -/
theorem test_add_i_wraps : does 0xF31E ((index start 0xFFFF).setReg 3 2) (fun t => t.i == 0x0001) = true := by decide

/-- M3 -/
theorem test_add_i_no_flag : does 0xF31E (((index start 0x0FFF).setReg 3 1).setReg 0xF 0x55) (fun t => t.i == 0x1000 && t.reg 0xF == 0x55) = true := by decide

/-- M7 -/
theorem test_ld_f : does 0xF029 (start.setReg 0 0xF) (fun t => t.i == 0x004B) = true := by decide

/-- M9 -/
theorem test_ld_f_whole_byte : does 0xF029 (start.setReg 0 0xFF) (fun t => t.i == 0x04FB) = true := by decide

/-- M10 -/
theorem test_ld_b : does 0xF033 ((index start 0x300).setReg 0 0xFE) (fun t => t.memRead 0x300 == 2 && t.memRead 0x301 == 5 && t.memRead 0x302 == 4) = true := by decide

/-- M16 -/
theorem test_ld_b_wraps : does 0xF033 ((index start 0x1FFE).setReg 0 0x7B) (fun t => t.memRead 0xFFE == 1 && t.memRead 0xFFF == 2 && t.memRead 0 == 3) = true := by decide

/-- M19, exclusive -/
theorem test_ld_mem_vx : does 0xF255 ((((index start 0x300).setReg 0 0x11).setReg 1 0x22).setReg 2 0x33) (fun t => t.memRead 0x300 == 0x11 && t.memRead 0x301 == 0x22 && t.memRead 0x302 == 0 && t.i == 0x300) = true := by decide

/-- M18, inclusive -/
theorem test_ld_mem_vx_inclusive : does 0xF055 (((index (inclusive start) 0x300).setReg 0 0x11).setReg 1 0x22) (fun t => t.memRead 0x300 == 0x11 && t.memRead 0x301 == 0) = true := by decide

/-- M22, exclusive -/
theorem test_ld_vx_mem : does 0xF265 (((index start 0x300).setReg 2 3).memWriteBytes 0x300 [0x77, 0x88, 0x99]) (fun t => t.reg 0 == 0x77 && t.reg 1 == 0x88 && t.reg 2 == 3 && t.i == 0x300) = true := by decide

/-- M21, inclusive -/
theorem test_ld_vx_mem_inclusive : does 0xF065 (((index (inclusive start) 0x300).setReg 1 0x22).memWriteBytes 0x300 [0x77, 0x88]) (fun t => t.reg 0 == 0x77 && t.reg 1 == 0x22) = true := by decide

/-- D13, on one row of set pixels -/
theorem test_cls : does 0x00E0 (({ start with fb := Vector.replicate 32 0xFFFFFFFFFFFFFFFF } : State).setReg 0xF 1) (fun t => t.fb == Vector.replicate 32 0 && t.reg 0xF == 1) = true := by decide

/-- D5b: set pixels (63,31), (0,31), (63,0) -/
theorem test_drw_wraps : does 0xD012 ((((index start 0x300).setReg 0 0xFF).setReg 1 0xFF).memWriteBytes 0x300 [0xC0, 0x80]) (fun t => t.fb[31] == 0x8000000000000001 && t.fb[0] == 0x8000000000000000 && t.fb[1] == 0 && t.reg 0xF == 0) = true := by decide

/-- D7b: the old VF is the column, the pixel goes out -/
theorem test_drw_collides : does 0xDF11 (((((index start 0x300).setReg 0xF 5).setReg 1 2).memWriteBytes 0x300 [0x80]).flipPixel 5 2) (fun t => t.fb == Vector.replicate 32 0 && t.reg 0xF == 1) = true := by decide

/-- K5: the low nibble names the key -/
theorem test_skp : does 0xE29E ((start.setReg 2 0x1A).setKey 0xA true) (fun t => t.pc == 0x0204) = true := by decide

/-- K2 -/
theorem test_skp_up : does 0xE29E (start.setReg 2 5) (fun t => t.pc == 0x0202) = true := by decide

/-- K3 -/
theorem test_sknp : does 0xE2A1 (start.setReg 2 5) (fun t => t.pc == 0x0204) = true := by decide

/-- K6 -/
theorem test_sknp_down : does 0xE2A1 ((start.setReg 2 0xF5).setKey 5 true) (fun t => t.pc == 0x0202) = true := by decide

/-- K8: a held key does not answer -/
theorem test_ld_vx_k : does 0xF20A ((start.setReg 2 0x99).setKey 7 true) (fun t => t.paused && t.waitReg == 2 && t.reg 2 == 0x99 && t.pc == 0x0202) = true := by decide

/-- TM1 -/
theorem test_ld_vx_dt : does 0xF107 (timers start 3 9) (fun t => t.reg 1 == 3 && t.dt == 3 && t.st == 9) = true := by decide

/-- TM2 -/
theorem test_ld_dt_vx : does 0xF015 ((timers start 0xC8 0).setReg 0 3) (fun t => t.dt == 3) = true := by decide

/-- TM3: TONE waits for the end of the tick -/
theorem test_ld_st_vx : does 0xF018 (start.setReg 0 0x1E) (fun t => t.st == 0x1E && !t.tone) = true := by decide

/-- T26 -/
theorem test_invalid_word : does 0x5AA1 (start.setReg 0xA 7) (fun t => t.pc == 0x0202 && record t 1 0x0200 0x5AA1) = true := by decide

/-- I1. -/
theorem test_ld_imm : does 0x6FFF start (fun t => t.reg 0xF == 0xFF && t.pc == 0x0202) = true := by decide

/-- I5, I7 for any draw: the free value is masked, and one draw is taken (a free value has no value to test). -/
theorem test_rnd : ∃ t, exec (.rnd 3 0x0F) start = .next t ∧ t.reg 3 = Config.rand 0 &&& 0x0F ∧ t.draws = 1 :=
  ⟨_, rfl, rfl, rfl⟩

/-! ## Ticks and host events -/

/-- TK1, tick 3: at the last slot the timers stay at the floor; the tone follows ST. -/
theorem test_tick_floor :
    stepsTo (({ start with slot := 9, tone := true } : State).placeWord 0x1200)
      (fun t => t.dt == 0 && t.st == 0 && !t.tone && t.renders == 1 && t.slot == 0) = true := by decide

/-- TK1, tick 1: DT 1, ST 2 at the end of the tick. -/
theorem test_tick_end :
    stepsTo ((timers { start with slot := 9 } 1 2).placeWord 0x1200)
      (fun t => t.dt == 0 && t.st == 1 && t.tone && t.renders == 1 && t.slot == 0) = true := by decide

/-- TK2. -/
theorem test_tick_paused :
    stepsTo (waiting (timers start 0 5) 0)
      (fun t => t.st == 5 && t.tone && t.renders == 1 && t.pc == 0x200) = true := by decide

/-- TK3. -/
theorem test_tick_halted :
    stepsTo (stopped (timers start 0 5))
      (fun t => t.st == 5 && !t.tone && t.renders == 0 && t.pc == 0x200) = true := by decide

/-- TK4. -/
theorem test_key_down : stepsTo (hosted start [.keyDown 3]) (fun t => t.keyBit 3 && t.reg 0 == 0) = true := by decide

/-- TK5. -/
theorem test_key_down_answers :
    stepsTo (hosted (waiting (start.setReg 0xF 9) 0xF) [.keyDown 0])
      (fun t => t.keyBit 0 && t.reg 0xF == 0 && !t.paused) = true := by decide

/-- TK6. -/
theorem test_key_up :
    stepsTo (hosted ((waiting start 2).setKey 7 true) [.keyUp 7]) (fun t => !t.keyBit 7 && t.paused) = true := by decide

/-- TK11: the empty image. -/
theorem test_reset_runs_into_fault :
    stepsTo State.reset (fun t => t.pc == 0x202 && record t 1 0x200 0x0000 && t.renders == 0) = true := by decide

/-- TK12, from a halted core, with the image of P1. -/
theorem test_reset_event :
    stepsTo (hosted (stopped (start.setReg 4 9)) [.reset [0x60, 0x0A]])
      (fun t => !t.halted && t.faultCause == 0 && t.reg 4 == 0 && t.memRead 0x200 == 0x60 && t.memRead 0x201 == 0x0A &&
        t.memRead 0 == 0xF0 && t.memRead 0x4F == 0x80) = true := by decide
/-! ## Witnesses: the hypotheses of each obligation are met together

Named after the obligation. Where a statement has several clauses, each has its own witness, at a boundary of its range. -/

/-- The start state with a CALL placed at its `PC`, 16 entries stacked. -/
def fullCall : State := (depth start 16).withFetchWord 16 0x2300

/-- The next state of an instruction. -/
def after (i : Instr) (s : State) : State :=
  match exec i s with
  | .next t => t
  | .fault _ => s
  | .refused _ => s

theorem exec_after (i : Instr) (s : State) : exec i s = .next (after i s) := by
  obtain ⟨t, h⟩ := Laws.exec_answers i s
  simp [after, h]

theorem test_hyps_EncodeOfDecode : decodeWord 0xF965#16 = .ok (.ldVxMem 9) := by decide

theorem test_hyps_DecoderAgreesWithTheTable :
    decodeWord 0x00EE#16 = .ok .ret ∧ decodeWord 0x00EF#16 = .error (.zeroFamily 0x00EF) := by decide

theorem test_hyps_StepRunsTheDecodedInstruction :
    let s := start.withFetchWord 16 0x8014;
    Running s ∧ decodeWord (s.fetchWord s.pc.toNat) = .ok (.addReg 0 1) := by decide

/-- Clause 1 (a fault), 2 (a pause), 3 (before the last slot: slot 8 of 10), 4 (the last slot: 9 of 10). -/
theorem test_hyps_TickEndsAfterItsLastSlot :
    (Running fullCall ∧ decodeWord (fullCall.fetchWord fullCall.pc.toNat) = .ok (.call 0x300) ∧
      (after (.call 0x300) fullCall.inTick.advance).halted = true) ∧
    (let s := start.withFetchWord 16 0xF20A;
      Running s ∧ decodeWord (s.fetchWord s.pc.toNat) = .ok (.ldVxK 2) ∧
      (after (.ldVxK 2) s.inTick.advance).halted = false ∧ (after (.ldVxK 2) s.inTick.advance).paused = true) ∧
    (let s := (start.setSlot 8).withFetchWord 16 0x00E0;
      Running s ∧ decodeWord (s.fetchWord s.pc.toNat) = .ok .cls ∧
      (after .cls s.inTick.advance).halted = false ∧ (after .cls s.inTick.advance).paused = false ∧
      (after .cls s.inTick.advance).slot + 1 < (after .cls s.inTick.advance).params.speed) ∧
    (let s := (start.setSlot 9).withFetchWord 16 0x00E0;
      Running s ∧ decodeWord (s.fetchWord s.pc.toNat) = .ok .cls ∧
      (after .cls s.inTick.advance).halted = false ∧ (after .cls s.inTick.advance).paused = false ∧
      (after .cls s.inTick.advance).params.speed ≤ (after .cls s.inTick.advance).slot + 1) := by decide

theorem test_hyps_InvalidWordTakesInvalidOpcode :
    Running State.reset ∧
      ∀ r ∈ opcodeTable, r.selects (State.reset.fetchWord State.reset.pc.toNat) = false := by decide

theorem test_hyps_PlacedWordIsTheNextInstruction : (65535 : Nat) < 65536 := by decide

theorem test_hyps_PausedTickOnlyRefreshesTheTone :
    TickNext (waiting start 2) ∧ (waiting start 2).halted = false ∧ (waiting start 2).paused = true := by decide

theorem test_hyps_HaltedTickChangesNothing : TickNext (stopped start) ∧ (stopped start).halted = true := by decide

/-- With a listed `Tick`, and at the least `SPEED`. -/
theorem test_hyps_StepsOfATickAreTheTick :
    let s := hosted { start with params := { defaultParams with speed := 1 } } [.tick];
    s.slot = 0 ∧ TickNext s ∧ 1 ≤ s.params.speed := by decide

/-- At the greatest length that is taken, and at the least. -/
theorem test_hyps_ResetEventLoadsTheImage :
    (hosted start [.reset (List.replicate 3584 0)]).slot = 0 ∧
    (hosted start [.reset (List.replicate 3584 0)]).events = .reset (List.replicate 3584 0) :: [] ∧
    (List.replicate 3584 (0#8)).length ≤ 3584 ∧ ([] : List Byte).length ≤ 3584 :=
  ⟨rfl, rfl, by rw [List.length_replicate], by decide⟩

/-- At the least length that is refused. -/
theorem test_hyps_OversizedImageIsRefused :
    (hosted start [.reset (List.replicate 3585 0)]).slot = 0 ∧
    (hosted start [.reset (List.replicate 3585 0)]).events = .reset (List.replicate 3585 0) :: [] ∧
    3584 < (List.replicate 3585 (0#8)).length :=
  ⟨rfl, rfl, by rw [List.length_replicate]; decide⟩

/-- Not waiting, and waiting. -/
theorem test_hyps_KeyDownSetsTheKeyAndAnswersTheRequest :
    (let s := hosted start [.keyDown 0xF]; s.slot = 0 ∧ s.events = .keyDown 0xF :: [] ∧ s.paused = false) ∧
    (let s := hosted (waiting start 0xF) [.keyDown 0]; s.slot = 0 ∧ s.events = .keyDown 0 :: [] ∧ s.paused = true) := by
  decide

theorem test_hyps_KeyUpClearsTheKeyAlone :
    (hosted start [.keyUp 7]).slot = 0 ∧ (hosted start [.keyUp 7]).events = .keyUp 7 :: [] := by decide

theorem test_hyps_KeyPressCompletesTheWait : exec (.ldVxK 2) start = .next (start.awaitKey 2) ∧ (3 : RegIdx) ≠ 2 :=
  ⟨rfl, by decide⟩

theorem test_hyps_EveryStepKeepsTheInvariant :
    Machine.Inv start ∧ stepsTo (start.withFetchWord 16 0xF033) (fun _ => true) = true ∧
      Machine.Inv (start.withFetchWord 16 0xF033) := by decide

theorem test_hyps_ParametersNeverChange : stepsTo State.reset (fun _ => true) = true := by decide

/-- Both disjuncts: a step that goes on, and an image one byte too long. -/
theorem test_cases_EveryStepGoesOnUnlessTheImageIsTooLong :
    (stepsTo start (fun _ => true) = true) ∧ 3584 < (List.replicate 3585 (0#8)).length :=
  ⟨by decide, by rw [List.length_replicate]; decide⟩

/-- Each part is changed by some instruction that its clause names. -/
theorem test_hyps_OnlyTheNamedInstructionsWriteEachPart :
    (after (.ldI 0xFFF) start).i ≠ start.i ∧ (after (.call 0x300) start).sp ≠ start.sp ∧
    (after (.call 0x300) start).stack ≠ start.stack ∧ (after (.ldDtVx 1) (start.setReg 1 3)).dt ≠ 0 ∧
    (after (.ldStVx 1) (start.setReg 1 3)).st ≠ 0 ∧ (after (.ldB 0) (index start 0x1FFF)).mem ≠ start.mem ∧
    (after .cls (start.flipPixel 63 31)).fb ≠ (start.flipPixel 63 31).fb ∧
    (after (.ldVxK 2) start).paused ≠ start.paused ∧ (after .ret start).halted ≠ start.halted := by decide

theorem test_hyps_OnlyTheNamedInstructionsWriteEachPart_draws : (after (.rnd 0 0) start).draws ≠ start.draws :=
  fun h => absurd (show (1 : Nat) = 0 from h) (by decide)

theorem test_hyps_OnlySixInstructionsWriteVFAsAFlag :
    let s := (start.setReg 0 0xFF).setReg 1 1;
    (after (.addReg 0 1) s).reg vf ≠ s.reg vf := by decide

theorem test_hyps_PcMovesOnlyAsTheAccountSays : exec (.seImm 0 0) start = .next start.advance := rfl

/-- RET on an empty stack; CALL on a full one. -/
theorem test_hyps_AFaultWritesOnlyTheRecord :
    (start.halted = false ∧ (after .ret start).halted = true) ∧
    ((depth start 16).halted = false ∧ (after (.call 0xFFF) (depth start 16)).halted = true) := by decide

/-- A halted core before a `Reset`, and before a `KeyDown`. -/
theorem test_hyps_HaltedIsLeftOnlyByReset :
    (let s := hosted (stopped start) [.reset []];
      s.halted = true ∧ s.paused = false ∧ stepsTo s (fun t => !t.halted) = true) ∧
    (let s := hosted (stopped start) [.keyDown 4];
      s.halted = true ∧ s.paused = false ∧ stepsTo s (fun t => t.halted && t.keyBit 4) = true) := by decide

theorem test_hyps_PauseIsEndedOnlyByKeyDownOrReset :
    (let s := hosted (waiting start 2) [.keyDown 7]; s.paused = true ∧ stepsTo s (fun t => !t.paused) = true) ∧
    (let s := hosted (waiting start 2) [.reset []]; s.paused = true ∧ stepsTo s (fun t => !t.paused) = true) := by decide

theorem test_hyps_KeysChangeOnlyByHostEventsBetweenTicks :
    stepsTo (hosted start [.keyDown 0xF]) (fun t => t.key != start.key) = true ∧
    stepsTo (hosted (start.setKey 0xF true) [.keyUp 0xF]) (fun t => t.key == start.key) = true ∧
    stepsTo (hosted (start.setKey 0 true) [.reset []]) (fun t => t.key == start.key) = true := by decide

/-- The end of a tick changes all three; FX15 and FX18 change a timer before the last slot; so does a `Reset`. -/
theorem test_hyps_TimersAndToneChangeOnlyAtTheirMoments :
    stepsTo ((timers { start with slot := 9 } 1 2).placeWord 0x1200)
      (fun t => t.dt != 1 && t.st != 2 && t.tone != start.tone) = true ∧
    does 0xF015 (start.setReg 0 3) (fun t => t.dt != start.dt) = true ∧
    does 0xF018 (start.setReg 0 3) (fun t => t.st != start.st) = true ∧
    stepsTo (hosted (timers start 1 1) [.reset []]) (fun t => t.dt != 1 && t.st != 1) = true := by decide

theorem test_hyps_JumpGoesToItsAddress : 0x1FFF#16 &&& 0xF000#16 = 0x1000#16 := by decide

/-- At depth 0 and at depth 15. -/
theorem test_hyps_CallPushesTheReturnAddress : start.sp.val < 16 ∧ (depth start 15).sp.val < 16 := by decide

/-- At depth 1 and at depth 16. -/
theorem test_hyps_ReturnPopsTheStack :
    (0 < (depth start 1).sp.val ∧ (depth start 1).sp.val - 1 < 16) ∧
    (0 < (depth start 16).sp.val ∧ (depth start 16).sp.val - 1 < 16) := by decide

theorem test_hyps_StackFaultsAreTaken : (depth start 16).sp.val = 16 ∧ start.sp.val = 0 := by decide

theorem test_hyps_ReturnComesBackAfterTheCall :
    (depth start 15).sp.val < 16 ∧
    exec (.call 0x300) (depth start 15) = .next (after (.call 0x300) (depth start 15)) ∧
    ((after (.call 0x300) (depth start 15)).setReg 4 9).sp = (after (.call 0x300) (depth start 15)).sp ∧
    ((after (.call 0x300) (depth start 15)).setReg 4 9).stack = (after (.call 0x300) (depth start 15)).stack :=
  ⟨by decide, exec_after _ _, rfl, rfl⟩

theorem test_hyps_ImmediateSkips :
    0x3A42#16 &&& 0xF000#16 = 0x3000#16 ∧ 0x4FFF#16 &&& 0xF000#16 = 0x4000#16 := by decide

theorem test_hyps_ImmediateLoadAndAdd :
    0x6FFF#16 &&& 0xF000#16 = 0x6000#16 ∧ 0x7F02#16 &&& 0xF000#16 = 0x7000#16 := by decide

/-- The destinations that are not VF, in AddSetsCarry, SubtractSetsStrictFlag, ShiftsMoveOneBitIntoVF. -/
theorem test_hyps_flag_writers : (0xE#4 : RegIdx) ≠ vf ∧ (0 : RegIdx) ≠ vf := by decide

theorem test_hyps_LoadAddressRegister : 0xAFFF#16 &&& 0xF000#16 = 0xA000#16 := by decide

/-- Both values of the parameter, at the least and the greatest `X`. -/
theorem test_hyps_BulkStoreCopiesTheRegisters :
    (0 = if start.params.bulkInclusive then (0 : RegIdx).toNat + 1 else (0 : RegIdx).toNat) ∧
    (16 = if (inclusive start).params.bulkInclusive then (0xF : RegIdx).toNat + 1 else (0xF : RegIdx).toNat) ∧
    (15 : Nat) < 16 := by decide

theorem test_hyps_BulkLoadCopiesTheBytes :
    (15 = if start.params.bulkInclusive then (0xF : RegIdx).toNat + 1 else (0xF : RegIdx).toNat) ∧
    (1 = if (inclusive start).params.bulkInclusive then (0 : RegIdx).toNat + 1 else (0 : RegIdx).toNat) ∧
    (14 : Nat) < 15 := by decide

theorem test_hyps_BulkLoadRestoresWhatBulkStoreSaved :
    let t := after (.ldMemVx 2) (index start 0x300);
    exec (.ldMemVx 2) (index start 0x300) = .next t ∧ (t.setReg 0 9).mem = t.mem ∧ (t.setReg 0 9).i = t.i ∧
      (t.setReg 0 9).params = t.params ∧ 1 < (index start 0x300).bulkCount 2 :=
  ⟨exec_after _ _, rfl, rfl, rfl, by decide⟩

/-- The last pixel of the grid is covered by the sprite, and the next row's first is not. -/
theorem test_hyps_DrawInvertsExactlyTheCoveredPixels :
    Covers (((index start 0x300).setReg 0 63).setReg 1 31 |>.memWriteBytes 0x300 [0x80]) 0 1 1 63 31 ∧
    (63 : Nat) < 64 ∧ (31 : Nat) < 32 :=
  ⟨⟨0, by decide, 0, by decide, by decide, by decide, by decide⟩, by decide, by decide⟩

theorem test_hyps_DrawingTwiceRestoresTheScreen : (0 : RegIdx) ≠ vf ∧ (0xE#4 : RegIdx) ≠ vf := by decide

theorem test_hyps_KeySkips : (0xA#4 : KeyCode).toNat = ((start.setReg 2 0x1A).reg 2).toNat % 16 := by decide

/-! ## Memory's canonical form -/

theorem test_memory_write_back : ((start.memWrite 0x1300 5).memWrite 0x300 0).mem = [] := by decide

theorem test_memory_order : ((start.memWrite 0x301 5).memWrite 0x300 6).mem = [(0x300, 6), (0x301, 5)] := by decide

end Sys2Proof.Tests
end

section
/-! The state family: what each instruction and each move of a tick can write, and the obligations about the parts of
the state and the invariant (10_state R11 to R28). -/

namespace Sys2Proof.Laws

open Sys2Proof.Machine

/-! ## The instructions that can fault, and the conditional skip -/

/-- RET underflows on an empty stack and pops otherwise (R81). -/
theorem exec_ret_cases {s t : State} (h : exec .ret s = .next t) :
    (s.sp.val = 0 ∧ t = s.raise .stackUnderflow s.ia (encode .ret)) ∨
    ∃ h0 : 0 < s.sp.val, t = { s with pc := s.stack[s.sp.val - 1], sp := ⟨s.sp.val - 1, by omega⟩ } := by
  rcases Nat.eq_zero_or_pos s.sp.val with h0 | h0
  · simp only [exec, execRet, pop_of_empty h0] at h
    cases h
    exact .inl ⟨h0, rfl⟩
  · simp only [exec, execRet, pop_of_pos h0] at h
    cases h
    exact .inr ⟨h0, rfl⟩

/-- CALL overflows at depth 16 and pushes below it (R83). -/
theorem exec_call_cases {nnn : Addr12} {s t : State} (h : exec (.call nnn) s = .next t) :
    (s.sp.val = 16 ∧ t = s.raise .stackOverflow s.ia (encode (.call nnn))) ∨
    ∃ h0 : s.sp.val < 16, t = { s with
      pc := zext12 nnn, stack := s.stack.set s.sp.val s.pc h0, sp := ⟨s.sp.val + 1, by omega⟩ } := by
  by_cases h0 : s.sp.val < 16
  · simp only [exec, execCall, push_of_lt _ h0] at h
    cases h
    exact .inr ⟨h0, rfl⟩
  · have h16 : s.sp.val = 16 := by omega
    simp only [exec, execCall, push_of_full _ h16] at h
    cases h
    exact .inl ⟨h16, rfl⟩

/-- Of a register write, VF sees only one whose destination is VF. -/
theorem eq_vf_of_setReg_vf_ne {s : State} {x : RegIdx} {b : Byte} (h : (s.setReg x b).reg vf ≠ s.reg vf) :
    x = vf := by
  by_contra hx
  exact h (reg_setReg_ne s b (Ne.symm hx))

/-- A bulk copy names V[15] only with `X = 0xF` and the inclusive count (R124). -/
theorem bulkReg_eq_vf {s : State} {x : RegIdx} {k : Nat} (hk : k < s.bulkCount x) (h : bulkReg k = vf) :
    x = vf ∧ s.params.bulkInclusive = true := by
  have hmod : k % 16 = 15 := by simpa [bulkReg, ← BitVec.toNat_inj] using h
  have hx := x.isLt
  unfold State.bulkCount at hk
  split at hk
  · next hb => exact ⟨BitVec.eq_of_toNat_eq (by simp; omega), hb⟩
  · omega

end Sys2Proof.Laws

namespace Sys2Proof.Proofs

open Sys2Proof.Machine Sys2Proof.Laws

/-! ## What an instruction writes -/

/-- Settles O22, by the constructors of `Instr`: each meaning is a record update of the parts it may write (the draw and
the bulk copies by `draw_eq`, `bulkStore_eq`, `bulkLoad_eq`; RET and CALL by their two outcomes). -/
theorem onlyTheNamedInstructionsWriteEachPart : Obligations.OnlyTheNamedInstructionsWriteEachPart := by
  intro i s t h
  cases i with
  | ret => obtain ⟨-, rfl⟩ | ⟨h0, rfl⟩ := exec_ret_cases h <;> simp
  | call nnn => obtain ⟨-, rfl⟩ | ⟨h0, rfl⟩ := exec_call_cases h <;> simp
  | drw x y n => cases h; rw [draw_eq]; simp [State.clearCollision]
  | ldB x => cases h; rw [memWriteBytes_eq]; simp
  | ldMemVx x => cases h; rw [bulkStore_eq]; simp
  | ldVxMem x => cases h; rw [bulkLoad_eq]; simp
  | seImm | sneImm | seReg | sneReg | skp | sknp => cases h; rw [skipIf_eq]; simp
  | addReg | sub | shr | subn | shl => cases h; simp [State.setResult]
  | rnd x kk => cases h; simp [State.draw]
  | _ => cases h; simp

/-- Settles O23, by the constructors of `Instr`: a flag writer is named, a register write reaches VF only through its
destination field, the bulk load only through its last register, and the rest write no register. -/
theorem onlySixInstructionsWriteVFAsAFlag : Obligations.OnlySixInstructionsWriteVFAsAFlag := by
  intro i s t h hv
  cases i with
  | addReg | sub | shr | subn | shl | drw => simp
  | ldImm | addImm | ldReg | orReg | andReg | xorReg | ldVxDt =>
    cases h; cases eq_vf_of_setReg_vf_ne hv; simp
  | rnd x kk => cases h; cases eq_vf_of_setReg_vf_ne (s := s.draw.2) hv; simp
  | ldVxMem x =>
    cases h
    by_cases hx : ∃ k, k < s.bulkCount x ∧ Part.reg vf = .reg (bulkReg k)
    · obtain ⟨k, hk, e⟩ := hx
      obtain ⟨rfl, hb⟩ := bulkReg_eq_vf hk (Part.reg.inj e).symm
      simp [hb]
    · exact absurd (frame_bulkLoad s (s.bulkCount x) (.reg vf) hx) hv
  | ret => obtain ⟨-, rfl⟩ | ⟨h0, rfl⟩ := exec_ret_cases h <;> exact absurd rfl hv
  | call nnn => obtain ⟨-, rfl⟩ | ⟨h0, rfl⟩ := exec_call_cases h <;> exact absurd rfl hv
  | ldMemVx x => cases h; rw [bulkStore_eq] at hv; exact absurd rfl hv
  | seImm | sneImm | seReg | sneReg | skp | sknp => cases h; rw [skipIf_eq] at hv; exact absurd rfl hv
  | _ => cases h; exact absurd rfl hv

end Sys2Proof.Proofs

namespace Sys2Proof.Laws

open Sys2Proof.Machine Sys2Proof.Proofs

/-! ## What an instruction keeps, read off O22 -/

/-- No instruction changes a key, the parameters or the slot count. -/
theorem exec_keeps_key_params_slot {i : Instr} {s t : State} (h : exec i s = .next t) :
    t.key = s.key ∧ t.params = s.params ∧ t.slot = s.slot := by
  obtain ⟨-, -, -, -, -, -, -, -, -, -, hkey, -, hparams, hslot, -⟩ :=
    onlyTheNamedInstructionsWriteEachPart i s t h
  exact ⟨hkey, hparams, hslot⟩

/-- An instruction takes a fault or leaves `HALTED` and the cause alone. -/
theorem exec_raises_or_keeps_fault {i : Instr} {s t : State} (h : exec i s = .next t) :
    (∃ f ia op, t = s.raise f ia op) ∨ (t.halted = s.halted ∧ t.faultCause = s.faultCause) := by
  by_cases hi : i = .ret ∨ ∃ nnn, i = .call nnn
  · rcases hi with rfl | ⟨nnn, rfl⟩
    · obtain ⟨-, rfl⟩ | ⟨h0, rfl⟩ := exec_ret_cases h
      · exact .inl ⟨_, _, _, rfl⟩
      · exact .inr ⟨rfl, rfl⟩
    · obtain ⟨-, rfl⟩ | ⟨h0, rfl⟩ := exec_call_cases h
      · exact .inl ⟨_, _, _, rfl⟩
      · exact .inr ⟨rfl, rfl⟩
  · obtain ⟨-, -, -, -, -, -, -, -, hrecord, -⟩ := onlyTheNamedInstructionsWriteEachPart i s t h
    have hkept := mt hrecord hi
    simp only [not_or, not_not] at hkept
    exact .inr ⟨hkept.1, hkept.2.1⟩

/-! ## What the end of a step writes -/

/-- The end of a tick writes the timers, the tone and the model's counts (R160). -/
theorem endTick_eq (s : State) : s.endTick = { s with
    dt := s.endTick.dt, st := s.endTick.st, tone := s.endTick.tone, renders := s.renders + 1, slot := 0 } := by
  cases hp : s.paused
  · rw [endTick_of_running hp]; simp [hp]
  · rw [endTick_of_paused hp]; simp [hp]

/-- What follows an instruction writes no more than the end of a tick does. -/
theorem afterSlot_eq (s : State) : afterSlot s = { s with
    dt := (afterSlot s).dt, st := (afterSlot s).st, tone := (afterSlot s).tone,
    renders := (afterSlot s).renders, slot := (afterSlot s).slot } := by
  unfold afterSlot
  split
  · rfl
  · split
    · rw [endTick_eq]
    · rfl

theorem keyDown_params (s : State) (k : KeyCode) : (s.keyDown k).params = s.params := by
  cases hp : s.paused
  · rw [keyDown_of_running k hp]; rfl
  · rw [keyDown_of_paused k hp]; rfl

/-- A step delivers a `Reset` or a key event, or it is a move of the tick, which changes no key and no parameter. -/
theorem step_delivers_or_keeps_key_params {s t : State} (h : step s = .next t) :
    (∃ image es, s.slot = 0 ∧ s.events = .reset image :: es ∧ t = { s with events := es }.resetWith image) ∨
    (∃ k es, s.slot = 0 ∧ s.events = .keyDown k :: es ∧ t = { s with events := es }.keyDown k) ∨
    (∃ k es, s.slot = 0 ∧ s.events = .keyUp k :: es ∧ t = { s with events := es }.keyUp k) ∨
    (t.key = s.key ∧ t.params = s.params) := by
  rcases step_cases h with ⟨image, es, h0, he, -, ht⟩ | hdown | hup | ⟨-, -, rfl⟩ | ⟨-, -, -, rfl⟩ |
    ⟨-, i, u, -, hu, rfl⟩ | ⟨-, -, rfl⟩
  · exact .inl ⟨image, es, h0, he, ht⟩
  · exact .inr (.inl hdown)
  · exact .inr (.inr (.inl hup))
  · rw [inTick_eq]; exact .inr (.inr (.inr ⟨rfl, rfl⟩))
  · rw [endTick_eq, inTick_eq]; exact .inr (.inr (.inr ⟨rfl, rfl⟩))
  · obtain ⟨hkey, hparams, -⟩ := exec_keeps_key_params_slot hu
    rw [inTick_eq] at hkey hparams
    rw [afterSlot_eq]
    exact .inr (.inr (.inr ⟨hkey, hparams⟩))
  · rw [afterSlot_eq, inTick_eq]; exact .inr (.inr (.inr ⟨rfl, rfl⟩))

/-! ## The invariant inside a step -/

/-- What holds between an instruction and whatever ends its slot: the invariant without its last clause, since a fault
has not ended the tick yet. -/
structure MidSlot (s : State) : Prop where
  mem_wf : Memory.wf s.mem
  cause_iff : s.faultCause = 0 ↔ s.halted = false
  not_paused : s.halted = true → s.paused = false
  slot_lt : s.slot < s.params.speed

theorem midSlot_of_inv {s : State} (h : Inv s) : MidSlot s := by
  obtain ⟨hm, hc, hp, hlt, -⟩ := h
  exact ⟨hm, hc, hp, hlt⟩

theorem code_ne_zero (f : Fault) : f.code ≠ 0 := by
  cases f <;> decide

/-- A fault taken by a core that is not paused writes a record that agrees with `HALTED`. -/
theorem raise_midSlot {s : State} (h : MidSlot s) (hp : s.paused = false) (f : Fault) (ia op : Word) :
    MidSlot (s.raise f ia op) :=
  ⟨h.mem_wf, iff_of_false (code_ne_zero f) (by simp), fun _ => hp, h.slot_lt⟩

/-- An instruction performed by a running core leaves all but the last clause. -/
theorem exec_midSlot {i : Instr} {s t : State} (h : MidSlot s) (hh : s.halted = false) (hp : s.paused = false)
    (he : exec i s = .next t) : MidSlot t := by
  obtain ⟨f, ia, op, rfl⟩ | ⟨hhalted, hcause⟩ := exec_raises_or_keeps_fault he
  · exact raise_midSlot h hp f ia op
  · obtain ⟨-, hparams, hslot⟩ := exec_keeps_key_params_slot he
    refine ⟨exec_keeps_memory_wf h.mem_wf he, ?_, ?_, ?_⟩
    · rw [hcause, hhalted]; exact h.cause_iff
    · simp [hhalted, hh]
    · rw [hslot, hparams]; exact h.slot_lt

/-- The end of a tick that a halt cut short gives the invariant. -/
theorem setSlot_zero_inv {s : State} (h : MidSlot s) : Inv (s.setSlot 0) :=
  ⟨h.mem_wf, h.cause_iff, h.not_paused, Nat.zero_lt_of_lt h.slot_lt, fun _ => rfl⟩

/-- The end of a tick gives the invariant. -/
theorem endTick_inv {s : State} (h : MidSlot s) : Inv s.endTick := by
  rw [endTick_eq]
  exact ⟨h.mem_wf, h.cause_iff, h.not_paused, Nat.zero_lt_of_lt h.slot_lt, fun _ => rfl⟩

/-- What ends a slot brings the whole invariant back: a fault ends the tick, and so does the last slot. -/
theorem afterSlot_inv {s : State} (h : MidSlot s) : Inv (afterSlot s) := by
  unfold afterSlot
  split
  · exact setSlot_zero_inv h
  · next hh =>
    split
    · exact endTick_inv h
    · next hlast =>
      obtain ⟨-, hlt⟩ : s.paused = false ∧ s.slot + 1 < s.params.speed := by simpa using hlast
      exact ⟨h.mem_wf, h.cause_iff, h.not_paused, hlt, fun hc => absurd hc hh⟩

/-- `Reset(image)` keeps the invariant: of the old state only the parameters matter, and they give a tick a slot. -/
theorem resetWith_inv {s : State} (h : Inv s) (image : List Byte) : Inv (s.resetWith image) := by
  obtain ⟨-, -, -, hlt, -⟩ := h
  have hwf := resetWith_keeps_wf s image
  rw [resetWith_eq]
  exact ⟨hwf, by simp [State.reset], fun _ => rfl, Nat.zero_lt_of_lt hlt, fun _ => rfl⟩

theorem keyDown_inv {s : State} (h : Inv s) (k : KeyCode) : Inv (s.keyDown k) := by
  cases hp : s.paused
  · rw [keyDown_of_running k hp]; exact h
  · rw [keyDown_of_paused k hp]
    obtain ⟨hm, hc, -, hlt, h0⟩ := h
    exact ⟨hm, hc, fun _ => rfl, hlt, h0⟩

theorem inTick_inv {s : State} (h : Inv s) : Inv s.inTick := by
  rw [inTick_eq]; exact h

theorem inTick_advance_running {s : State} (h : Running s) :
    s.inTick.advance.halted = false ∧ s.inTick.advance.paused = false := by
  rw [inTick_eq]; exact h.2

theorem inTick_advance_midSlot {s : State} (h : Inv s) : MidSlot s.inTick.advance :=
  midSlot_of_inv (s := s.inTick.advance) (inTick_inv h)

/-! ## Memory at reset -/

/-- A reset value of memory is the default font's byte below 0x050 and 0 above (R25, R26). -/
theorem unlisted_eq (a : Nat) : Memory.unlisted a = if h : a < 80 then defaultFont[a] else 0 := by
  unfold Memory.unlisted
  split
  · next h => rw [List.getD_eq_getElem _ _ (by simpa using h)]; simp
  · next h => exact List.getD_eq_default _ _ (by simpa using h)

end Sys2Proof.Laws

namespace Sys2Proof.Proofs

open Sys2Proof.Machine Sys2Proof.Laws

/-! ## The invariant and the whole-machine rules -/

/-- Settles O19, by what a step can have done: an event keeps the invariant, a tick's end keeps it, and an instruction
or an invalid word keeps all but its last clause (`MidSlot`), which `afterSlot` brings back. -/
theorem everyStepKeepsTheInvariant : Obligations.EveryStepKeepsTheInvariant := by
  intro s t hs h
  rcases step_cases h with ⟨image, es, -, -, -, rfl⟩ | ⟨k, es, -, -, rfl⟩ | ⟨k, es, -, -, rfl⟩ |
    ⟨-, -, rfl⟩ | ⟨-, -, -, rfl⟩ | ⟨hr, i, u, -, hu, rfl⟩ | ⟨hr, -, rfl⟩
  · exact resetWith_inv (s := { s with events := es }) hs image
  · exact keyDown_inv (s := { s with events := es }) hs k
  · exact hs
  · exact setSlot_zero_inv (midSlot_of_inv (inTick_inv hs))
  · exact endTick_inv (midSlot_of_inv (inTick_inv hs))
  · obtain ⟨hh, hp⟩ := inTick_advance_running hr
    exact afterSlot_inv (exec_midSlot (inTick_advance_midSlot hs) hh hp hu)
  · obtain ⟨-, hp⟩ := inTick_advance_running hr
    exact afterSlot_inv (raise_midSlot (inTick_advance_midSlot hs) hp _ _ _)

/-- Settles O28: of the steps, only the delivery of a `Reset` or of a key event is no move of the tick. -/
theorem keysChangeOnlyByHostEventsBetweenTicks : Obligations.KeysChangeOnlyByHostEventsBetweenTicks := by
  intro s t h hkey
  rcases step_delivers_or_keeps_key_params h with ⟨image, es, h0, he, -⟩ | ⟨k, es, h0, he, -⟩ |
    ⟨k, es, h0, he, -⟩ | ⟨hk, -⟩
  · exact ⟨h0, _, es, he, .inr (.inr ⟨image, rfl⟩)⟩
  · exact ⟨h0, _, es, he, .inl ⟨k, rfl⟩⟩
  · exact ⟨h0, _, es, he, .inr (.inl ⟨k, rfl⟩)⟩
  · exact absurd hk hkey

/-- Settles O21: a move of the tick keeps the parameters, and so does each event. -/
theorem parametersNeverChange : Obligations.ParametersNeverChange := by
  intro s t h
  rcases step_delivers_or_keeps_key_params h with ⟨image, es, -, -, rfl⟩ | ⟨k, es, -, -, rfl⟩ |
    ⟨k, es, -, -, rfl⟩ | ⟨-, hp⟩
  · rw [resetWith_eq]
  · exact keyDown_params { s with events := es } k
  · rfl
  · exact hp

/-- Settles O12: the record's fields are the table's, and memory that lists nothing reads as its unlisted bytes. -/
theorem resetHoldsTheTableOfValues : Obligations.ResetHoldsTheTableOfValues := by
  refine ⟨rfl, rfl, rfl, rfl, rfl, rfl, rfl, rfl, rfl, rfl, rfl, rfl, fun x => ?_, fun j => ?_, fun k => ?_,
    fun x y => ?_, fun a => unlisted_eq (a % 4096)⟩
  · simp [State.reg, State.reset]
  · simp [State.reset]
  · simp [State.keyBit, State.reset]
  · simp [State.pixel, State.reset]

/-- Settles O18: no cell is listed, nothing is halted, and no slot of the 10 is used. -/
theorem resetMeetsTheInvariant : Obligations.ResetMeetsTheInvariant := by
  refine ⟨⟨List.Pairwise.nil, by simp [State.reset]⟩, ?_, fun _ => rfl, ?_, fun _ => rfl⟩ <;> decide

end Sys2Proof.Proofs
end

section
/-! Memory: the access primitives, the two-byte fetch, and the word that `withFetchWord` places
(20_memory R41, R42, R44, R53). -/

namespace Sys2Proof.Laws

open Sys2Proof.Machine

/-! ## The two-byte fetch -/

theorem wordOfBytes_toNat (hi lo : Byte) : (wordOfBytes hi lo).toNat = hi.toNat * 256 + lo.toNat := by
  unfold wordOfBytes
  rw [BitVec.toNat_append, ← Nat.shiftLeft_add_eq_or_of_lt lo.isLt, Nat.shiftLeft_eq]

/-- The access primitive reduces its address (R41, R43). -/
theorem memRead_mod (s : State) (a : Nat) : s.memRead (a % memSize) = s.memRead a := by
  simp only [State.memRead, Nat.mod_mod]

/-- The fetch is the word of the two bytes read at the address and the next one (R44). -/
theorem fetchWord_eq_wordOfBytes (s : State) (a : Nat) :
    s.fetchWord a = wordOfBytes (s.memRead a) (s.memRead (a + 1)) := rfl

/-- Two bytes just stored are the word fetched: the second store does not meet the first, at the wrap included (R53). -/
theorem fetchWord_memWriteBytes_pair (s : State) (a : Nat) (hi lo : Byte) :
    (s.memWriteBytes a [hi, lo]).fetchWord a = wordOfBytes hi lo := by
  have hne : a % memSize ≠ (a + 1) % memSize := by simp only [memSize]; omega
  have hhi : (s.memWriteBytes a [hi, lo]).memRead a = hi := by
    simp only [State.memWriteBytes, memRead_memWrite, if_neg hne, if_true]
  have hlo : (s.memWriteBytes a [hi, lo]).memRead (a + 1) = lo := by
    simp only [State.memWriteBytes, memRead_memWrite, if_true]
  rw [fetchWord_eq_wordOfBytes, hhi, hlo]

/-! ## The placed word -/

/-- A word placed is the word fetched: its bytes are laid out as the fetch reads them. -/
theorem fetchWord_placeWord (s : State) (op : Word) : (s.placeWord op).fetchWord s.pc.toNat = op :=
  (fetchWord_memWriteBytes_pair s _ _ _).trans (wordOfBytes_high_low op)

/-- A ready state with a word placed performs an instruction next: it is not halted, not paused, and no event is ahead. -/
theorem running_withFetchWord (s : State) (nbits w : Nat) : Running (s.withFetchWord nbits w) := by
  unfold State.withFetchWord State.placeWord
  rw [memWriteBytes_eq]
  exact ⟨.inr (.inl rfl), rfl, rfl⟩

/-- Reading a table word is decoding the word of its low `nbits` bits. -/
theorem decodeTableWord_eq_some_iff {nbits w : Nat} {i : Instr} :
    decodeTableWord nbits w = some i ↔ decodeWord (BitVec.ofNat 16 (w % 2 ^ nbits)) = .ok i := by
  simp only [decodeTableWord, decode, wordOfBytes_high_low]
  cases decodeWord (BitVec.ofNat 16 (w % 2 ^ nbits)) <;> simp

end Sys2Proof.Laws

namespace Sys2Proof.Proofs

open Sys2Proof.Machine Sys2Proof.Laws

/-! ## The memory rules -/

/-- Settles O8: the stores of `withFetchWord` leave the ready state ready and are what the fetch reads; of a word below
65536 no bit is cut off. -/
theorem placedWordIsTheNextInstruction : Obligations.PlacedWordIsTheNextInstruction := by
  intro s w hw
  have hmod : w % 2 ^ 16 = w := Nat.mod_eq_of_lt hw
  refine ⟨running_withFetchWord s 16 w, ?_, fun i => ?_⟩
  · have hpc : (s.withFetchWord 16 w).pc = s.ready.pc := rfl
    rw [hpc, State.withFetchWord, fetchWord_placeWord, hmod]
  · rw [decodeTableWord_eq_some_iff, hmod]

/-- Settles O30, by the rules of the access primitives: reduction, read after write, and the frame of a write. -/
theorem memoryPrimitivesReduceAndReadBack : Obligations.MemoryPrimitivesReduceAndReadBack :=
  fun s addr b => ⟨(memRead_mod s addr).symm, fun a => memRead_memWrite s addr a b, frame_memWrite s addr b⟩

/-- Settles O31: the fetch is the word of the two bytes read, whose value puts the first one high, and bytes just stored
are the ones read. -/
theorem fetchIsBigEndianAndSeesStores : Obligations.FetchIsBigEndianAndSeesStores := by
  intro s addr hi lo
  constructor
  · calc (s.fetchWord addr).toNat
      _ = (s.memRead addr).toNat * 256 + (s.memRead (addr + 1)).toNat := by
        rw [fetchWord_eq_wordOfBytes, wordOfBytes_toNat]
      _ = (s.memRead (addr % 4096)).toNat * 256 + (s.memRead ((addr + 1) % 4096)).toNat := by
        rw [← memRead_mod s addr, ← memRead_mod s (addr + 1), memSize]
  · exact (congrArg BitVec.toNat (fetchWord_memWriteBytes_pair s addr hi lo)).trans (wordOfBytes_toNat hi lo)

end Sys2Proof.Proofs
end

section
/-! The encoding family: the decoder and the encoder are inverse to each other, the decoder agrees with the table of
mask and match, and the step performs what the decoder answers (30_encoding R60 to R68). -/

namespace Sys2Proof.Laws

open Sys2Proof.Machine

/-! ## A word from some of its fields (R61) -/

theorem fmtA_of_top {op : Word} {t : BitVec 4} (ht : topOf op = t) : fmtA t (nnnOf op) = op := by
  rw [← ht, fmtA_fields]

theorem fmtI_of_top {op : Word} {t : BitVec 4} (ht : topOf op = t) : fmtI t (xOf op) (kkOf op) = op := by
  rw [← ht, fmtI_fields]

theorem fmtI_of_top_kk {op : Word} {t : BitVec 4} {kk : Byte} (ht : topOf op = t) (hk : kkOf op = kk) :
    fmtI t (xOf op) kk = op := by
  rw [← hk, fmtI_of_top ht]

theorem fmtR_of_top {op : Word} {t : BitVec 4} (ht : topOf op = t) :
    fmtR t (xOf op) (yOf op) (nOf op) = op := by
  rw [← ht, fmtR_fields]

theorem fmtR_of_top_n {op : Word} {t n : BitVec 4} (ht : topOf op = t) (hn : nOf op = n) :
    fmtR t (xOf op) (yOf op) n = op := by
  rw [← hn, fmtR_of_top ht]

/-! ## The decoder reads the fields that the encoder wrote -/

/-- The word of an instruction decodes to it: the formats' fields are read back (R61, R63, R66). -/
theorem decodeWord_encode (i : Instr) : decodeWord (encode i) = .ok i := by
  cases i with
  | cls | ret => rfl
  | ldReg | orReg | andReg | xorReg | addReg | sub | shr | subn | shl => simp [encode, decodeWord, decodeAlu]
  | skp | sknp => simp [encode, decodeWord, decodeKey]
  | ldVxDt | ldVxK | ldDtVx | ldStVx | addI | ldF | ldB | ldMemVx | ldVxMem =>
    simp [encode, decodeWord, decodeMisc]
  | _ => simp [encode, decodeWord]

/-! ## The encoder writes the fields that the decoder read -/

theorem encode_of_decodeZero {op : Word} {i : Instr} (h : decodeZero op = .ok i) : encode i = op := by
  unfold decodeZero at h
  split_ifs at h with hcls hret <;> cases h
  · exact hcls.symm
  · exact hret.symm

theorem encode_of_decodeAlu {op : Word} {i : Instr} (ht : topOf op = 0x8#4) (h : decodeAlu op = .ok i) :
    encode i = op := by
  simp only [decodeAlu] at h
  split_ifs at h with hn hn hn hn hn hn hn hn hn <;> cases h <;> exact fmtR_of_top_n ht hn

theorem encode_of_decodeKey {op : Word} {i : Instr} (ht : topOf op = 0xE#4) (h : decodeKey op = .ok i) :
    encode i = op := by
  simp only [decodeKey] at h
  split_ifs at h with hk hk <;> cases h <;> exact fmtI_of_top_kk ht hk

theorem encode_of_decodeMisc {op : Word} {i : Instr} (ht : topOf op = 0xF#4) (h : decodeMisc op = .ok i) :
    encode i = op := by
  simp only [decodeMisc] at h
  split_ifs at h with hk hk hk hk hk hk hk hk hk <;> cases h <;> exact fmtI_of_top_kk ht hk

/-- A word that decodes is the word of the instruction it decodes to, by the arms of the dispatch (R63). -/
theorem encode_of_decodeWord {op : Word} {i : Instr} (h : decodeWord op = .ok i) : encode i = op := by
  unfold decodeWord at h
  obtain ⟨ht, h⟩ | ⟨t0, h⟩ := ite_eq_iff.1 h
  · exact encode_of_decodeZero h
  obtain ⟨ht, h⟩ | ⟨t1, h⟩ := ite_eq_iff.1 h
  · cases h; exact fmtA_of_top ht
  obtain ⟨ht, h⟩ | ⟨t2, h⟩ := ite_eq_iff.1 h
  · cases h; exact fmtA_of_top ht
  obtain ⟨ht, h⟩ | ⟨t3, h⟩ := ite_eq_iff.1 h
  · cases h; exact fmtI_of_top ht
  obtain ⟨ht, h⟩ | ⟨t4, h⟩ := ite_eq_iff.1 h
  · cases h; exact fmtI_of_top ht
  obtain ⟨ht, h⟩ | ⟨t5, h⟩ := ite_eq_iff.1 h
  · obtain ⟨hn, h⟩ | ⟨-, h⟩ := ite_eq_iff.1 h <;> cases h
    exact fmtR_of_top_n ht hn
  obtain ⟨ht, h⟩ | ⟨t6, h⟩ := ite_eq_iff.1 h
  · cases h; exact fmtI_of_top ht
  obtain ⟨ht, h⟩ | ⟨t7, h⟩ := ite_eq_iff.1 h
  · cases h; exact fmtI_of_top ht
  obtain ⟨ht, h⟩ | ⟨t8, h⟩ := ite_eq_iff.1 h
  · exact encode_of_decodeAlu ht h
  obtain ⟨ht, h⟩ | ⟨t9, h⟩ := ite_eq_iff.1 h
  · obtain ⟨hn, h⟩ | ⟨-, h⟩ := ite_eq_iff.1 h <;> cases h
    exact fmtR_of_top_n ht hn
  obtain ⟨ht, h⟩ | ⟨tA, h⟩ := ite_eq_iff.1 h
  · cases h; exact fmtA_of_top ht
  obtain ⟨ht, h⟩ | ⟨tB, h⟩ := ite_eq_iff.1 h
  · cases h; exact fmtA_of_top ht
  obtain ⟨ht, h⟩ | ⟨tC, h⟩ := ite_eq_iff.1 h
  · cases h; exact fmtI_of_top ht
  obtain ⟨ht, h⟩ | ⟨tD, h⟩ := ite_eq_iff.1 h
  · cases h; exact fmtR_of_top ht
  obtain ⟨ht, h⟩ | ⟨tE, h⟩ := ite_eq_iff.1 h
  · exact encode_of_decodeKey ht h
  have ht : topOf op = 0xF#4 := by bv_omega
  exact encode_of_decodeMisc ht h

/-! ## Rows (R66) -/

/-- The family `Row` for every instruction. -/
theorem row_statement : ∀ i : Instr, Row.Statement i
  | .cls => Row.cls
  | .ret => Row.ret
  | .jp nnn => Row.jp nnn
  | .call nnn => Row.call nnn
  | .seImm x kk => Row.seImm x kk
  | .sneImm x kk => Row.sneImm x kk
  | .seReg x y => Row.seReg x y
  | .ldImm x kk => Row.ldImm x kk
  | .addImm x kk => Row.addImm x kk
  | .ldReg x y => Row.ldReg x y
  | .orReg x y => Row.orReg x y
  | .andReg x y => Row.andReg x y
  | .xorReg x y => Row.xorReg x y
  | .addReg x y => Row.addReg x y
  | .sub x y => Row.sub x y
  | .shr x y => Row.shr x y
  | .subn x y => Row.subn x y
  | .shl x y => Row.shl x y
  | .sneReg x y => Row.sneReg x y
  | .ldI nnn => Row.ldI nnn
  | .jpV0 nnn => Row.jpV0 nnn
  | .rnd x kk => Row.rnd x kk
  | .drw x y n => Row.drw x y n
  | .skp x => Row.skp x
  | .sknp x => Row.sknp x
  | .ldVxDt x => Row.ldVxDt x
  | .ldVxK x => Row.ldVxK x
  | .ldDtVx x => Row.ldDtVx x
  | .ldStVx x => Row.ldStVx x
  | .addI x => Row.addI x
  | .ldF x => Row.ldF x
  | .ldB x => Row.ldB x
  | .ldMemVx x => Row.ldMemVx x
  | .ldVxMem x => Row.ldVxMem x

theorem selects_iff {r : OpcodeRow} {op : Word} : r.selects op = true ↔ op &&& r.mask = r.matchBits :=
  decide_eq_true_iff

theorem rowOf_selects_encode (i : Instr) : (rowOf i).selects (encode i) = true :=
  selects_iff.2 (row_statement i).1

theorem rowOf_mem_opcodeTable (i : Instr) : rowOf i ∈ opcodeTable :=
  (row_statement i).2

/-! ## Words that agree under a row's mask have the tested fields in common (R66) -/

theorem eq_of_masked_all {op op' : Word} (h : op &&& 0xFFFF#16 = op' &&& 0xFFFF#16) : op = op' := by
  rwa [show 0xFFFF#16 = BitVec.allOnes 16 from rfl, BitVec.and_allOnes, BitVec.and_allOnes] at h

/-- The mask of a row of format A or I, and of DXYN, sees the top nibble. -/
theorem topOf_of_masked {op op' : Word} (h : op &&& 0xF000#16 = op' &&& 0xF000#16) : topOf op = topOf op' :=
  (masked_top_iff ..).1 (h.trans ((masked_top_iff ..).2 rfl))

/-- The mask of a row of format R sees the top nibble and the function code. -/
theorem topOf_nOf_of_masked {op op' : Word} (h : op &&& 0xF00F#16 = op' &&& 0xF00F#16) :
    topOf op = topOf op' ∧ nOf op = nOf op' :=
  (masked_alu_iff ..).1 (h.trans ((masked_alu_iff ..).2 ⟨rfl, rfl⟩))

/-- The mask of a row of format S sees the top nibble and the low byte. -/
theorem topOf_kkOf_of_masked {op op' : Word} (h : op &&& 0xF0FF#16 = op' &&& 0xF0FF#16) :
    topOf op = topOf op' ∧ kkOf op = kkOf op' :=
  (masked_sub_iff ..).1 (h.trans ((masked_sub_iff ..).2 ⟨rfl, rfl⟩))

/-- The table is complete: a word that selects the row of `i` has the fields that the decoder tests in common with
`encode i`, so it decodes to an instruction of that row. -/
theorem exists_decodeWord_of_selects {i : Instr} {op : Word} (h : (rowOf i).selects op = true) :
    ∃ j, decodeWord op = .ok j ∧ rowOf j = rowOf i := by
  have hm : op &&& (rowOf i).mask = encode i &&& (rowOf i).mask :=
    (selects_iff.1 h).trans (row_statement i).1.symm
  cases i with
  | cls | ret =>
    cases eq_of_masked_all hm
    exact ⟨_, rfl, rfl⟩
  | seReg | sneReg | ldReg | orReg | andReg | xorReg | addReg | sub | shr | subn | shl =>
    obtain ⟨ht, hn⟩ := topOf_nOf_of_masked hm
    simp only [encode, topOf_fmtR, nOf_fmtR] at ht hn
    simp [decodeWord, decodeAlu, ht, hn, rowOf]
  | skp | sknp | ldVxDt | ldVxK | ldDtVx | ldStVx | addI | ldF | ldB | ldMemVx | ldVxMem =>
    obtain ⟨ht, hk⟩ := topOf_kkOf_of_masked hm
    simp only [encode, topOf_fmtI, kkOf_fmtI] at ht hk
    simp [decodeWord, decodeKey, decodeMisc, ht, hk, rowOf]
  | _ =>
    have ht := topOf_of_masked hm
    simp only [encode, topOf_fmtA, topOf_fmtI, topOf_fmtR] at ht
    simp [decodeWord, ht, rowOf]

/-- Of a word that decodes, the decoder's answer decides which rows it selects: a second row would be a second
answer. -/
theorem selects_rowOf_iff {i j : Instr} {op : Word} (h : decodeWord op = .ok i) :
    (rowOf j).selects op = true ↔ rowOf j = rowOf i := by
  constructor
  · intro hj
    obtain ⟨k, hk, hrow⟩ := exists_decodeWord_of_selects hj
    cases h.symm.trans hk
    exact hrow.symm
  · intro e
    rw [e, ← encode_of_decodeWord h]
    exact rowOf_selects_encode i

theorem exists_rowOf_of_mem {r : OpcodeRow} (hr : r ∈ opcodeTable) : ∃ i, r = rowOf i := by
  obtain ⟨i, -, rfl⟩ := List.mem_map.1 hr
  exact ⟨i, rfl⟩

/-- A word that selects no row is rejected: the word of an instruction selects the row of it. -/
theorem exists_error_of_selects_none {op : Word} (h : ∀ r ∈ opcodeTable, r.selects op = false) :
    ∃ e, decodeWord op = .error e := by
  cases hd : decodeWord op with
  | error e => exact ⟨e, rfl⟩
  | ok i =>
    have hs := rowOf_selects_encode i
    rw [encode_of_decodeWord hd, h _ (rowOf_mem_opcodeTable i)] at hs
    cases hs

/-! ## The step of a running core -/

/-- A running core fetches at its PC, advances it, executes, and then does whatever ends the slot (R62). -/
theorem step_of_running {s : State} (h : Running s) :
    step s = andThen (execute (s.fetchWord s.pc.toNat) s.pc s.inTick.advance) fun t => .next (afterSlot t) := by
  obtain ⟨ht, hh, hp⟩ := h
  rw [step_of_tickNext ht, tickSlot_of_running (by rw [inTick_eq]; exact hh) (by rw [inTick_eq]; exact hp), stepOnce,
    fetchWord_inTick, pc_inTick]

theorem execute_of_ok {op : Word} {i : Instr} (h : decodeWord op = .ok i) (ia : Word) (s : State) :
    execute op ia s = exec i s := by
  simp only [execute, h]

theorem execute_of_error {op : Word} {e : Reject} (h : decodeWord op = .error e) (ia : Word) (s : State) :
    execute op ia s = .next (s.raise .invalidOpcode ia op) := by
  simp only [execute, h]

theorem afterSlot_of_halted {s : State} (h : s.halted = true) : afterSlot s = s.setSlot 0 :=
  if_pos h

end Sys2Proof.Laws

namespace Sys2Proof.Proofs

open Sys2Proof.Machine Sys2Proof.Laws

/-! ## The encoding rules -/

/-- Settles O2: the two bytes make up the word again, and the word of each instruction decodes to it. -/
theorem decodeOfEncode : Obligations.DecodeOfEncode := by
  intro i rest
  simp only [encodeBytes, List.cons_append, List.nil_append, decode, wordOfBytes_high_low, decodeWord_encode]

/-- Settles O3, by the arms of the decoder's dispatch (`encode_of_decodeWord`). -/
theorem encodeOfDecode : Obligations.EncodeOfDecode :=
  fun _ _ => encode_of_decodeWord

/-- Settles O4: every row of the table is the row of some instruction, and a word that selects that row decodes to an
instruction of it; so the decoder's one answer names the one row, and a rejected word selects none. -/
theorem decoderAgreesWithTheTable : Obligations.DecoderAgreesWithTheTable := by
  refine ⟨fun op i h r hr => ?_, fun op e h r hr => ?_, rfl⟩
  · obtain ⟨j, rfl⟩ := exists_rowOf_of_mem hr
    exact selects_rowOf_iff h
  · obtain ⟨j, rfl⟩ := exists_rowOf_of_mem hr
    by_contra hs
    obtain ⟨k, hk, -⟩ := exists_decodeWord_of_selects (Bool.eq_true_of_not_eq_false hs)
    cases h.symm.trans hk

/-- Settles O1: the decoder computes each of the ten answers. -/
theorem sampleWordsDecode : Obligations.SampleWordsDecode :=
  ⟨rfl, rfl, rfl, rfl, rfl, rfl, rfl, rfl, rfl, rfl⟩

/-- Settles O5: the step of a running core executes the fetched word, and a word that decodes is executed by `exec`. -/
theorem stepRunsTheDecodedInstruction : Obligations.StepRunsTheDecodedInstruction := by
  intro s i hr hd
  rw [step_of_running hr, execute_of_ok hd]

/-- Settles O7: a word that selects no row is rejected, so the step is the fault entry on the advanced state, and the
fault ends the tick. -/
theorem invalidWordTakesInvalidOpcode : Obligations.InvalidWordTakesInvalidOpcode := by
  intro s hr hnone
  obtain ⟨e, hd⟩ := exists_error_of_selects_none hnone
  refine ⟨(s.inTick.advance.raise .invalidOpcode s.pc (s.fetchWord s.pc.toNat)).setSlot 0, ?_, rfl, rfl, rfl, rfl,
    ?_, rfl, ?_⟩
  · rw [step_of_running hr, execute_of_error hd, andThen_next, afterSlot_of_halted rfl]
  · show s.inTick.pc + 2 = _
    rw [pc_inTick]
  · exact frame_trans (frame_mono (fun _ h => .inr (.inr (.inr h))) (frame_inTick s)) <|
      frame_trans (frame_mono (fun _ h => .inr (.inl h)) (frame_setPc _ _)) <|
      frame_trans (frame_mono (fun _ h => .inl h) (frame_raise _ _ _ _))
        (frame_mono (fun _ h => .inr (.inr (.inl h))) (frame_setSlot _ _))

end Sys2Proof.Proofs
end

section
/-! The control transfer family: jumps, the call stack with its two faults, the conditional skips, and the complete
account of the PC (40_control_transfer R80 to R88). -/

namespace Sys2Proof.Laws

open Sys2Proof.Machine

/-! ## Words and targets -/

/-- A decoder rule, read off an encoding (R61, R63). -/
theorem decodeWord_of_encode_eq {i : Instr} {op : Word} (h : encode i = op) : decodeWord op = .ok i :=
  h ▸ decodeWord_encode i

theorem zext12_toNat (nnn : Addr12) : (zext12 nnn).toNat = nnn.toNat :=
  BitVec.toNat_setWidth_of_le (by decide)

theorem zext8_toNat (b : Byte) : (zext8 b).toNat = b.toNat :=
  BitVec.toNat_setWidth_of_le (by decide)

/-- The target of BNNN is the true sum: it is below 4096 + 256 and loses no bit of the PC (D33). -/
theorem zext12_add_zext8_toNat (nnn : Addr12) (b : Byte) : (zext12 nnn + zext8 b).toNat = nnn.toNat + b.toNat := by
  rw [BitVec.toNat_add, zext12_toNat, zext8_toNat]
  exact Nat.mod_eq_of_lt (by have := nnn.isLt; have := b.isLt; omega)

theorem fmtA_toNat (t : BitVec 4) (nnn : Addr12) : (fmtA t nnn).toNat = t.toNat * 4096 + nnn.toNat := by
  rw [fmtA, BitVec.toNat_append, ← Nat.shiftLeft_add_eq_or_of_lt nnn.isLt, Nat.shiftLeft_eq]

/-- A word of format A is its opcode with NNN added (R61). -/
theorem fmtA_eq_add (t : BitVec 4) (nnn : Addr12) : fmtA t nnn = fmtA t 0#12 + zext12 nnn := by
  apply BitVec.eq_of_toNat_eq
  have ht := t.isLt
  have hn := nnn.isLt
  rw [BitVec.toNat_add, fmtA_toNat, fmtA_toNat, zext12_toNat, BitVec.toNat_zero]
  omega

/-! ## Skips -/

theorem skipIf_pc (s : State) (c : Bool) : (s.skipIf c).pc = if c = true then s.pc + 2 else s.pc := by
  rw [skipIf_eq]

theorem frame_skipIf (s : State) (c : Bool) : Frame (fun p => p = .pc) s (s.skipIf c) := by
  rw [skipIf_eq]
  exact frame_setPc s _

/-- A skip leaves the advanced PC or adds 2 to it (R80). -/
theorem skipIf_pc_cases (s : State) (c : Bool) : (s.skipIf c).pc = s.pc ∨ (s.skipIf c).pc = s.pc + 2 := by
  cases c
  · exact .inl rfl
  · exact .inr rfl

/-! ## CALL and RET -/

theorem exec_call_of_lt (nnn : Addr12) {s : State} (h : s.sp.val < 16) :
    exec (.call nnn) s = .next { s with
      pc := zext12 nnn, stack := s.stack.set s.sp.val s.pc h, sp := ⟨s.sp.val + 1, by omega⟩ } := by
  simp only [exec, execCall, push_of_lt _ h]
  rfl

theorem exec_call_of_full (nnn : Addr12) {s : State} (h : s.sp.val = 16) :
    exec (.call nnn) s = .next (s.raise .stackOverflow s.ia (encode (.call nnn))) := by
  simp only [exec, execCall, push_of_full _ h]

theorem exec_ret_of_pos {s : State} (h : 0 < s.sp.val) :
    exec .ret s = .next { s with pc := s.stack[s.sp.val - 1]'(by omega), sp := ⟨s.sp.val - 1, by omega⟩ } := by
  simp only [exec, execRet, pop_of_pos h]
  rfl

theorem exec_ret_of_empty {s : State} (h : s.sp.val = 0) :
    exec .ret s = .next (s.raise .stackUnderflow s.ia (encode .ret)) := by
  simp only [exec, execRet, pop_of_empty h]

theorem frame_setSp (s : State) (n : Fin 17) : Frame (fun p => p = .sp) s { s with sp := n } := by
  intro p hp
  cases p with
  | sp => exact absurd rfl hp
  | _ => rfl

theorem frame_setStack (s : State) (j : Fin 16) (w : Word) :
    Frame (fun p => p = .stackAt j) s { s with stack := s.stack.set j.val w } := by
  intro p hp
  cases p with
  | stackAt k => exact Vector.getElem_set_ne j.isLt k.isLt fun e => hp (congrArg Part.stackAt (Fin.ext e.symm))
  | _ => rfl

end Sys2Proof.Laws

namespace Sys2Proof.Proofs

open Sys2Proof.Machine Sys2Proof.Laws

/-! ## The control transfer rules -/

/-- Settles O32: a word with top nibble 1 is the word of JP of its low 12 bits, and JP writes the PC alone. -/
theorem jumpGoesToItsAddress : Obligations.JumpGoesToItsAddress :=
  ⟨fun op h => decodeWord_of_encode_eq (fmtA_of_top ((masked_top_iff op 0x1#4).1 h)),
    fun nnn s => ⟨_, rfl, zext12_toNat nnn, frame_setPc s _⟩⟩

/-- Settles O33: the sum fits in 16 bits (`zext12_add_zext8_toNat`), and BNNN writes the PC alone. -/
theorem indexedJumpAddsV0 : Obligations.IndexedJumpAddsV0 :=
  fun nnn s => ⟨_, rfl, zext12_add_zext8_toNat nnn (s.reg 0), frame_setPc s _⟩

/-- Settles O34: below depth 16 the push answers; CALL writes one stack entry, then SP, then the PC. -/
theorem callPushesTheReturnAddress : Obligations.CallPushesTheReturnAddress := by
  intro nnn s h
  refine ⟨_, exec_call_of_lt nnn h, rfl, Vector.getElem_set_self h, zext12_toNat nnn, ?_⟩
  exact frame_trans (frame_mono (fun _ e => .inr (.inr e)) (frame_setStack s ⟨s.sp.val, h⟩ s.pc)) <|
    frame_trans (frame_mono (fun _ e => .inr (.inl e)) (frame_setSp _ _))
      (frame_mono (fun _ e => .inl e) (frame_setPc _ _))

/-- Settles O35: on a stack that is not empty the pop answers; RET writes SP and then the PC. -/
theorem returnPopsTheStack : Obligations.ReturnPopsTheStack := by
  intro s h0 h
  refine ⟨_, exec_ret_of_pos h0, rfl, rfl, ?_⟩
  exact frame_trans (frame_mono (fun _ e => .inr e) (frame_setSp s ⟨s.sp.val - 1, by omega⟩))
    (frame_mono (fun _ e => .inl e) (frame_setPc _ _))

/-- Settles O36: at depth 16 there is no push and on an empty stack no pop, so both meanings are the fault entry. -/
theorem stackFaultsAreTaken : Obligations.StackFaultsAreTaken := by
  constructor
  · intro nnn s h
    have hop : encode (.call nnn) = 0x2000#16 + nnn.setWidth 16 := fmtA_eq_add 0x2#4 nnn
    refine ⟨_, exec_call_of_full nnn h, rfl, ?_⟩
    rw [← hop]
    exact raise_faulted ..
  · intro s h
    exact ⟨_, exec_ret_of_empty h, rfl, raise_faulted ..⟩

/-- Settles O37: after the CALL the stack is not empty, and its top entry is the one that the CALL wrote. -/
theorem returnComesBackAfterTheCall : Obligations.ReturnComesBackAfterTheCall := by
  intro nnn s t u h hcall hsp hstack
  rw [exec_call_of_lt nnn h] at hcall
  cases hcall
  have hdepth : u.sp.val = s.sp.val + 1 := congrArg Fin.val hsp
  refine ⟨_, exec_ret_of_pos (by omega), ?_, Fin.ext ?_⟩
  · simp [hstack, hdepth]
  · simp [hdepth]

/-- Settles O38: a word with top nibble 3 or 4 is the word of SE or SNE of its fields, and each is a skip. -/
theorem immediateSkips : Obligations.ImmediateSkips := by
  refine ⟨fun op h => decodeWord_of_encode_eq (fmtI_of_top ((masked_top_iff op 0x3#4).1 h)),
    fun op h => decodeWord_of_encode_eq (fmtI_of_top ((masked_top_iff op 0x4#4).1 h)),
    fun x kk s => ⟨⟨_, rfl, ?_, frame_skipIf s _⟩, ⟨_, rfl, ?_, frame_skipIf s _⟩⟩⟩
  · simp [skipIf_pc]
  · simp [skipIf_pc]

/-- Settles O39: both are skips, on equality and on inequality of the two registers. -/
theorem registerSkips : Obligations.RegisterSkips := by
  refine fun x y s => ⟨⟨_, rfl, ?_, frame_skipIf s _⟩, ⟨_, rfl, ?_, frame_skipIf s _⟩⟩
  · simp [skipIf_pc]
  · simp [skipIf_pc]

/-- Settles O24, by the constructors of `Instr`: the six skips, the two jumps, RET and CALL by their two outcomes; the
rest write other parts alone (the loops by `draw_eq`, `memWriteBytes_eq`, `bulkStore_eq`, `bulkLoad_eq`). -/
theorem pcMovesOnlyAsTheAccountSays : Obligations.PcMovesOnlyAsTheAccountSays := by
  intro i s t h
  cases i with
  | seImm | sneImm | seReg | sneReg | skp | sknp =>
    cases h
    exact (skipIf_pc_cases s _).imp_right fun e => .inl ⟨e, by simp⟩
  | jp nnn => cases h; exact .inr (.inr (.inl ⟨nnn, .inl rfl, zext12_toNat nnn⟩))
  | jpV0 nnn => cases h; exact .inr (.inr (.inr (.inl ⟨nnn, rfl, zext12_add_zext8_toNat nnn (s.reg 0)⟩)))
  | call nnn =>
    obtain ⟨-, rfl⟩ | ⟨h0, rfl⟩ := exec_call_cases h
    · exact .inl rfl
    · exact .inr (.inr (.inl ⟨nnn, .inr rfl, zext12_toNat nnn⟩))
  | ret =>
    obtain ⟨-, rfl⟩ | ⟨h0, rfl⟩ := exec_ret_cases h
    · exact .inl rfl
    · exact .inr (.inr (.inr (.inr ⟨rfl, by omega, h0, rfl⟩)))
  | drw x y n => cases h; rw [draw_eq]; exact .inl rfl
  | ldB x => cases h; rw [memWriteBytes_eq]; exact .inl rfl
  | ldMemVx x => cases h; rw [bulkStore_eq]; exact .inl rfl
  | ldVxMem x => cases h; rw [bulkLoad_eq]; exact .inl rfl
  | _ => cases h; exact .inl rfl

end Sys2Proof.Proofs
end

section
/-! The immediate and random family: the load, the addition without a flag and the masked draw
(41_immediate_and_random R90 to R93). -/

namespace Sys2Proof.Laws

open Sys2Proof.Machine

/-- Taking a draw counts it and changes nothing else (R93; log 2). -/
theorem frame_draw (s : State) : Frame (fun p => p = .draws) s s.draw.2 := by
  intro p hp
  cases p with
  | draws => exact absurd rfl hp
  | _ => rfl

theorem exec_rnd (x : RegIdx) (kk : Byte) (s : State) :
    exec (.rnd x kk) s = .next (s.draw.2.setReg x (Config.rand s.draws &&& kk)) :=
  rfl

end Sys2Proof.Laws

namespace Sys2Proof.Proofs

open Sys2Proof.Machine Sys2Proof.Laws

/-! ## The immediate and random rules -/

/-- Settles O40: a word with top nibble 6 or 7 is the word of LD or ADD of its fields; each is one register write, and
the sum of two bytes is already taken mod 256. -/
theorem immediateLoadAndAdd : Obligations.ImmediateLoadAndAdd := by
  refine ⟨fun op h => decodeWord_of_encode_eq (fmtI_of_top ((masked_top_iff op 0x6#4).1 h)),
    fun op h => decodeWord_of_encode_eq (fmtI_of_top ((masked_top_iff op 0x7#4).1 h)),
    fun x kk s => ⟨⟨_, rfl, reg_setReg_self s x kk, frame_setReg s x kk⟩, ⟨_, rfl, ?_, frame_setReg s x _⟩⟩⟩
  rw [reg_setReg_self, BitVec.toNat_add]

/-- Settles O41: RND counts the draw and then writes V[X]; the draw itself is never looked into. -/
theorem randomIsTheDrawMasked : Obligations.RandomIsTheDrawMasked := by
  intro x kk s
  refine ⟨_, exec_rnd x kk s, reg_setReg_self .., rfl, fun hkk => ?_, ?_⟩
  · rw [reg_setReg_self, hkk]
    exact BitVec.and_zero
  · exact frame_trans (frame_mono (fun _ e => .inr e) (frame_draw s))
      (frame_mono (fun _ e => .inl e) (frame_setReg _ x _))

end Sys2Proof.Proofs
end

section
/-! The register-register family: the assignment and the logical operations, which write no flag, and the addition, the
subtractions and the shifts, which leave VF as the flag (42_alu R100 to R110). -/

namespace Sys2Proof.Laws

open Sys2Proof.Machine

/-! ## The flags and the results as numbers -/

/-- The carry of 8XY4 as the number VF holds (R105, R110 (c)). -/
theorem flagByte_carryOut_toNat (a b : Byte) :
    (flagByte (carryOut a b)).toNat = if 255 < a.toNat + b.toNat then 1 else 0 := by
  simp [flagByte_toNat, carryOut]

/-- The flag of 8XY5 and 8XY7 as the number VF holds (R106, R108, R110 (d)). -/
theorem flagByte_strictlyGreater_toNat (minuend subtrahend : Byte) :
    (flagByte (strictlyGreater minuend subtrahend)).toNat = if subtrahend.toNat < minuend.toNat then 1 else 0 := by
  simp [flagByte_toNat, strictlyGreater]

/-- The flag that is bit `k` of a byte, as a number. -/
theorem flagByte_getLsbD_toNat (a : Byte) (k : Nat) : (flagByte (a.getLsbD k)).toNat = a.toNat / 2 ^ k % 2 := by
  simp only [flagByte_toNat, ← BitVec.testBit_toNat, Nat.testBit_eq_decide_div_mod_eq, decide_eq_true_eq]
  split <;> omega

/-- The bit shifted out to the right is the parity (R107). -/
theorem flagByte_lsbOf_toNat (a : Byte) : (flagByte (lsbOf a)).toNat = a.toNat % 2 := by
  rw [lsbOf, flagByte_getLsbD_toNat, Nat.pow_zero, Nat.div_one]

/-- The bit shifted out to the left says whether the byte is at least 128 (R109). -/
theorem flagByte_msbOf_toNat (a : Byte) : (flagByte (msbOf a)).toNat = a.toNat / 128 := by
  have ha := a.isLt
  rw [msbOf, flagByte_getLsbD_toNat]
  omega

theorem byte_sub_toNat (a b : Byte) : (a - b).toNat = (a.toNat + 256 - b.toNat) % 256 := by
  have hb := b.isLt
  rw [BitVec.toNat_sub]
  omega

theorem byte_shr_one_toNat (a : Byte) : (a >>> 1).toNat = a.toNat / 2 := by
  rw [BitVec.toNat_ushiftRight, Nat.shiftRight_one]

theorem byte_shl_one_toNat (a : Byte) : (a <<< 1).toNat = a.toNat * 2 % 256 := by
  rw [BitVec.toNat_shiftLeft, Nat.shiftLeft_eq]

/-! ## The two ways a register-register operation writes -/

/-- R100 (e): an operation without a flag writes its destination and nothing else. -/
theorem setReg_writes (s : State) (x : RegIdx) (r : Byte) :
    (s.setReg x r).reg x = r ∧ Frame (fun p => p = .reg x) s (s.setReg x r) :=
  ⟨reg_setReg_self s x r, frame_setReg s x r⟩

/-- R100 (c), (d): an operation with a flag leaves it in VF, its result in any other destination, and the rest alone. -/
theorem setResult_writes (s : State) (x : RegIdx) {r : Byte} {f : Bool} {result flag : Nat}
    (hf : (flagByte f).toNat = flag) (hr : r.toNat = result) :
    ((s.setResult x r f).reg vf).toNat = flag ∧ (x ≠ vf → ((s.setResult x r f).reg x).toNat = result) ∧
      Frame (fun p => p = .reg x ∨ p = .reg vf) s (s.setResult x r f) := by
  refine ⟨?_, fun hx => ?_, frame_setResult s x r f⟩
  · rw [setResult_vf, hf]
  · rw [setResult_reg s r f hx, hr]

end Sys2Proof.Laws

namespace Sys2Proof.Proofs

open Sys2Proof.Machine Sys2Proof.Laws

/-! ## The register-register rules -/

/-- Settles O42: each of the four is one register write, so VF is touched only as the destination. -/
theorem assignAndLogicalOperations : Obligations.AssignAndLogicalOperations :=
  fun x _ s => ⟨⟨_, rfl, setReg_writes s x _⟩, ⟨_, rfl, setReg_writes s x _⟩, ⟨_, rfl, setReg_writes s x _⟩,
    ⟨_, rfl, setReg_writes s x _⟩⟩

/-- Settles O43: the flag is the carry, and the sum of two bytes is already taken mod 256. -/
theorem addSetsCarry : Obligations.AddSetsCarry :=
  fun x y s => ⟨_, rfl, setResult_writes s x (flagByte_carryOut_toNat (s.reg x) (s.reg y)) (BitVec.toNat_add ..)⟩

/-- Settles O44: SUB and SUBN are one operation with its operands exchanged; the flag compares minuend and subtrahend
strictly. -/
theorem subtractSetsStrictFlag : Obligations.SubtractSetsStrictFlag :=
  fun x y s =>
    ⟨⟨_, rfl, setResult_writes s x (flagByte_strictlyGreater_toNat (s.reg x) (s.reg y)) (byte_sub_toNat ..)⟩,
      ⟨_, rfl, setResult_writes s x (flagByte_strictlyGreater_toNat (s.reg y) (s.reg x)) (byte_sub_toNat ..)⟩⟩

/-- Settles O45: the flag is the parity of the byte (SHR) or whether it is at least 128 (SHL); the meaning of neither
names `V[Y]`. -/
theorem shiftsMoveOneBitIntoVF : Obligations.ShiftsMoveOneBitIntoVF :=
  fun x _ s =>
    ⟨⟨_, rfl, setResult_writes s x (flagByte_lsbOf_toNat (s.reg x)) (byte_shr_one_toNat _)⟩,
      ⟨_, rfl, setResult_writes s x (flagByte_msbOf_toNat (s.reg x)) (byte_shl_one_toNat _)⟩⟩

end Sys2Proof.Proofs
end

section
/-! The index and memory family: the address register, the decimal digits, and the bulk store and load
(43_index_and_memory R120 to R127). -/

namespace Sys2Proof.Laws

open Sys2Proof.Machine

/-! ## The values as numbers -/

/-- Five times a byte loses no bit of `I` (R122). -/
theorem glyphAddr_toNat (b : Byte) : (glyphAddr b).toNat = b.toNat * 5 := by
  have hb := b.isLt
  rw [glyphAddr, BitVec.toNat_mul, zext8_toNat]
  exact Nat.mod_eq_of_lt (show b.toNat * 5 < 65536 by omega)

theorem hundreds_toNat (b : Byte) : (hundreds b).toNat = b.toNat / 100 := by
  have hb := b.isLt
  rw [hundreds, BitVec.toNat_ofNat]
  omega

theorem tens_toNat (b : Byte) : (tens b).toNat = b.toNat / 10 % 10 := by
  rw [tens, BitVec.toNat_ofNat]
  omega

theorem ones_toNat (b : Byte) : (ones b).toNat = b.toNat % 10 := by
  rw [ones, BitVec.toNat_ofNat]
  omega

/-- What FX33 stores, in the order of its addresses (R123). -/
def decimalDigits (b : Byte) : List Byte := [hundreds b, tens b, ones b]

theorem exec_ldB (x : RegIdx) (s : State) :
    exec (.ldB x) s = .next (s.memWriteBytes (s.effAddr 0) (decimalDigits (s.reg x))) :=
  rfl

/-- A bulk copy moves at most the 16 registers (R124). -/
theorem bulkCount_le (s : State) (x : RegIdx) : s.bulkCount x ≤ 16 := by
  have hx := x.isLt
  unfold State.bulkCount
  split <;> omega

/-! ## Bytes stored in a row -/

/-- The byte stored `k` places on is read back there, however the addresses wrap (R43). -/
theorem memRead_memWriteBytes_add (s : State) (a : Nat) {bs : List Byte} {k : Nat} (hk : k < bs.length)
    (hbs : bs.length ≤ memSize) : (s.memWriteBytes a bs).memRead (a + k) = bs[k] := by
  have hmod : (a + k + memSize - a % memSize) % memSize = k := by
    simp only [memSize] at hbs ⊢
    omega
  rw [memRead_memWriteBytes hbs, hmod, List.getD_eq_getElem _ _ hk]

/-- Storing bytes changes the cells that it names alone. -/
theorem frame_memWriteBytes (s : State) (a : Nat) (bs : List Byte) :
    Frame (fun p => ∃ k, k < bs.length ∧ p = .byteAt (BitVec.ofNat 12 (a + k))) s (s.memWriteBytes a bs) := by
  induction bs generalizing s a with
  | nil => exact frame_refl _ s
  | cons b bs ih =>
    refine frame_trans (frame_mono (fun p e => ⟨0, Nat.succ_pos _, e⟩) (frame_memWrite s a b))
      (frame_mono ?_ (ih (s.memWrite a b) (a + 1)))
    rintro p ⟨k, hk, rfl⟩
    exact ⟨k + 1, Nat.succ_lt_succ hk, by rw [Nat.add_assoc, Nat.add_comm 1]⟩

/-! ## The bulk copies -/

/-- The last step of a bulk store: the ones before it left `I` and the registers alone (R125). -/
theorem bulkStore_succ (s : State) (n : Nat) :
    (List.range (n + 1)).foldl storeBulk s =
      ((List.range n).foldl storeBulk s).memWrite (s.effAddr n) (s.reg (bulkReg n)) := by
  rw [List.range_succ, List.foldl_concat, bulkStore_eq]
  rfl

/-- The last step of a bulk load: the ones before it left `I` and memory alone (R126). -/
theorem bulkLoad_succ (s : State) (n : Nat) :
    (List.range (n + 1)).foldl loadBulk s =
      ((List.range n).foldl loadBulk s).setReg (bulkReg n) (s.memRead (s.effAddr n)) := by
  rw [List.range_succ, List.foldl_concat, bulkLoad_eq]
  rfl

/-- A byte that the bulk store wrote is the register; no later store of it meets the byte again (R125). -/
theorem memRead_bulkStore (s : State) {n k : Nat} (hk : k < n) (hn : n ≤ memSize) :
    ((List.range n).foldl storeBulk s).memRead (s.effAddr k) = s.reg (bulkReg k) := by
  induction n with
  | zero => omega
  | succ n ih =>
    rw [bulkStore_succ, memRead_memWrite]
    by_cases h : k = n
    · rw [h, if_pos rfl]
    · have hne : s.effAddr k % memSize ≠ s.effAddr n % memSize := by
        simp only [State.effAddr, memSize] at hn ⊢
        omega
      rw [if_neg hne, ih (by omega) (by omega)]

/-- A register that the bulk load wrote is the byte; no later load of it names the register again (R126). -/
theorem reg_bulkLoad (s : State) {n k : Nat} (hk : k < n) (hn : n ≤ 16) :
    ((List.range n).foldl loadBulk s).reg (bulkReg k) = s.memRead (s.effAddr k) := by
  induction n with
  | zero => omega
  | succ n ih =>
    rw [bulkLoad_succ]
    by_cases h : k = n
    · rw [h, reg_setReg_self]
    · have hne : bulkReg k ≠ bulkReg n := by
        simp only [bulkReg, ne_eq, ← BitVec.toNat_inj, BitVec.toNat_ofNat]
        omega
      rw [reg_setReg_ne _ _ hne, ih (by omega) (by omega)]

theorem exec_ldMemVx (x : RegIdx) (s : State) :
    exec (.ldMemVx x) s = .next ((List.range (s.bulkCount x)).foldl storeBulk s) :=
  rfl

theorem exec_ldVxMem (x : RegIdx) (s : State) :
    exec (.ldVxMem x) s = .next ((List.range (s.bulkCount x)).foldl loadBulk s) :=
  rfl

end Sys2Proof.Laws

namespace Sys2Proof.Proofs

open Sys2Proof.Machine Sys2Proof.Laws

/-! ## The index and memory rules -/

/-- Settles O46: a word with top nibble A is the word of LD I of its low 12 bits, which writes `I` alone. -/
theorem loadAddressRegister : Obligations.LoadAddressRegister :=
  ⟨fun op h => decodeWord_of_encode_eq (fmtA_of_top ((masked_top_iff op 0xA#4).1 h)),
    fun nnn s => ⟨_, rfl, zext12_toNat nnn, frame_setI s _⟩⟩

/-- Settles O47: each writes `I` alone; the sum of words is already taken mod 65536, and five times a byte fits. -/
theorem addressRegisterArithmetic : Obligations.AddressRegisterArithmetic := by
  refine fun x s => ⟨⟨_, rfl, ?_, frame_setI s _⟩, ⟨_, rfl, glyphAddr_toNat (s.reg x), frame_setI s _⟩⟩
  rw [setI_i, BitVec.toNat_add, zext8_toNat]

/-- Settles O48: FX33 stores three bytes in a row; each is read back as its digit, and no other cell is named. -/
theorem decimalDigitsAreStored : Obligations.DecimalDigitsAreStored := by
  intro x s
  have hread {k : Nat} (hk : k < 3) :
      (s.memWriteBytes (s.effAddr 0) (decimalDigits (s.reg x))).memRead (s.effAddr k) = (decimalDigits (s.reg x))[k] :=
    memRead_memWriteBytes_add s (s.effAddr 0) hk (show 3 ≤ memSize by decide)
  refine ⟨_, exec_ldB x s, ?_, ?_, ?_, frame_memWriteBytes s (s.effAddr 0) (decimalDigits (s.reg x))⟩
  · rw [hread (by decide)]
    exact hundreds_toNat _
  · rw [hread (by decide)]
    exact tens_toNat _
  · rw [hread (by decide)]
    exact ones_toNat _

/-- Settles O49: the count is the model's own under both readings and at most 16, so the stores do not meet. -/
theorem bulkStoreCopiesTheRegisters : Obligations.BulkStoreCopiesTheRegisters := by
  rintro x s _ rfl
  have hle : s.bulkCount x ≤ memSize := (bulkCount_le s x).trans (by decide)
  exact ⟨_, exec_ldMemVx x s, fun k hk => memRead_bulkStore s hk hle, frame_bulkStore s _⟩

/-- Settles O50: the count is the model's own under both readings and at most 16, so no register is loaded twice. -/
theorem bulkLoadCopiesTheBytes : Obligations.BulkLoadCopiesTheBytes := by
  rintro x s _ rfl
  exact ⟨_, exec_ldVxMem x s, fun k hk => reg_bulkLoad s hk (bulkCount_le s x), frame_bulkLoad s _⟩

/-- Settles O51: FX55 leaves `I` and the parameters, so FX65 reads as many bytes, at the addresses that were stored. -/
theorem bulkLoadRestoresWhatBulkStoreSaved : Obligations.BulkLoadRestoresWhatBulkStoreSaved := by
  intro x s t u hstore hmem hi hparams
  cases hstore
  rw [bulkStore_eq] at hi hparams
  have hcount : u.bulkCount x = s.bulkCount x := by unfold State.bulkCount; rw [hparams]
  have haddr (k : Nat) : u.effAddr k = s.effAddr k := by unfold State.effAddr; rw [hi]
  refine ⟨_, exec_ldVxMem x u, fun k hk => ?_⟩
  calc ((List.range (u.bulkCount x)).foldl loadBulk u).reg (bulkReg k)
    _ = u.memRead (u.effAddr k) := reg_bulkLoad u (hcount ▸ hk) (bulkCount_le u x)
    _ = ((List.range (s.bulkCount x)).foldl storeBulk s).memRead (s.effAddr k) := by
      rw [haddr, memRead_of_mem_eq hmem]
    _ = s.reg (bulkReg k) := memRead_bulkStore s hk ((bulkCount_le s x).trans (by decide))

end Sys2Proof.Proofs
end

section
/-! The display family: the pixel toggle, the cleared screen, and the draw, whose loops each invert a set of cells
(44_display R130 to R134). -/

namespace Sys2Proof.Laws

open Sys2Proof.Machine

/-! ## Coordinates (R130) -/

theorem fbCol_natCast (col : Nat) : fbCol col = col % 64 := by
  unfold fbCol; omega

theorem fbRow_natCast (row : Nat) : fbRow row = row % 32 := by
  unfold fbRow; omega

/-- A pixel depends on its coordinates only through the cell that they name. -/
theorem pixel_congr (s : State) {x y x' y' : Int} (hx : fbCol x = fbCol x') (hy : fbRow y = fbRow y') :
    s.pixel x y = s.pixel x' y' := by
  simp only [State.pixel, hx, hy]

theorem flipPixel_congr (s : State) {x y x' y' : Int} (hx : fbCol x = fbCol x') (hy : fbRow y = fbRow y') :
    s.flipPixel x y = s.flipPixel x' y' := by
  simp only [State.flipPixel, hx, hy]

theorem togglePixel_congr (s : State) {x y x' y' : Int} (hx : fbCol x = fbCol x') (hy : fbRow y = fbRow y') :
    s.togglePixel x y = s.togglePixel x' y' := by
  simp only [State.togglePixel, pixel_congr s hx hy, flipPixel_congr s hx hy]

/-- Any coordinates name the cell of R19's row-major framebuffer at their floor moduli. -/
theorem pixel_eq_fbCell (s : State) (x y : Int) : s.pixel x y = s.fbCell ((y % 32) * 64 + x % 64).toNat := by
  apply pixel_congr
  · rw [fbCol_eq_iff]; omega
  · rw [fbRow_eq_iff]; omega

theorem frame_clearFb (s : State) : Frame (fun p => ∃ a b, p = .pixelAt a b) s s.clearFb := by
  intro p hp
  cases p with
  | pixelAt a b => exact absurd ⟨a, b, rfl⟩ hp
  | _ => rfl

/-! ## Inverting a set of cells and noting the collisions -/

/-- What a draw can write (R133): VF and the pixels. -/
def DrawWrites (p : Part) : Prop := p = .reg vf ∨ ∃ a b, p = .pixelAt a b

/-- A pixel of the cells `P` (by column and row) is set. -/
def Collides (P : Nat → Nat → Prop) (s : State) : Prop :=
  ∃ a b : Int, P (fbCol a) (fbRow b) ∧ s.pixel a b = true

/-- From `s` to `t` the cells `P` were inverted and no other, a collision with one of them left VF at 1, no collision
left VF as it was, and nothing else changed: what each loop of a draw does (R133). -/
structure Inverts (P : Nat → Nat → Prop) (s t : State) : Prop where
  pixel (a b : Int) : t.pixel a b = true ↔ ¬(s.pixel a b = true ↔ P (fbCol a) (fbRow b))
  flag : (Collides P s ∧ t.reg vf = 1) ∨ (¬Collides P s ∧ t.reg vf = s.reg vf)
  frame : Frame DrawWrites s t

theorem frame_noteCollision (s : State) (hit : Bool) : Frame DrawWrites s (s.noteCollision hit) := by
  cases hit
  · exact frame_refl _ s
  · exact frame_mono (fun _ => .inl) (frame_setReg s vf 1)

theorem noteCollision_fb (s : State) (hit : Bool) : (s.noteCollision hit).fb = s.fb := by
  cases hit <;> rfl

/-- No cell: nothing happens. -/
theorem inverts_refl {P : Nat → Nat → Prop} (hP : ∀ col row, ¬P col row) (s : State) : Inverts P s s where
  pixel a b := by simp [hP]
  flag := .inr ⟨fun ⟨a, b, h, _⟩ => hP _ _ h, rfl⟩
  frame := frame_refl _ s

/-- Disjoint sets of cells, one after the other: the first changes no pixel that the second meets. -/
theorem inverts_trans {P Q : Nat → Nat → Prop} {s t u : State} (hPQ : ∀ col row, P col row → ¬Q col row)
    (h : Inverts P s t) (k : Inverts Q t u) : Inverts (fun col row => P col row ∨ Q col row) s u where
  pixel a b := by
    have hdis := hPQ (fbCol a) (fbRow b)
    rw [k.pixel, h.pixel]
    tauto
  flag := by
    have hQ : Collides Q t ↔ Collides Q s := by
      refine exists_congr fun a => exists_congr fun b => and_congr_right fun hab => ?_
      have hnP : ¬P (fbCol a) (fbRow b) := fun hp => hPQ _ _ hp hab
      simp [h.pixel, hnP]
    have hor : Collides (fun col row => P col row ∨ Q col row) s ↔ Collides P s ∨ Collides Q s := by
      simp only [Collides, or_and_right, exists_or]
    rw [hor, ← hQ]
    obtain ⟨hu, hvf⟩ | ⟨hu, hvf⟩ := k.flag
    · exact .inl ⟨.inr hu, hvf⟩
    · rw [hvf]
      exact h.flag.imp (fun ⟨hc, e⟩ => ⟨.inl hc, e⟩) (fun ⟨hc, e⟩ => ⟨not_or.2 ⟨hc, hu⟩, e⟩)
  frame := frame_trans h.frame k.frame

/-- A toggle that notes its collision inverts the one cell that its coordinates name (R131, R133). -/
theorem flipPixel_noteCollision_inverts (s : State) (x y : Int) :
    Inverts (fun col row => col = fbCol x ∧ row = fbRow y) s ((s.flipPixel x y).noteCollision (s.pixel x y)) where
  pixel a b := by
    rw [pixel_of_fb_eq (noteCollision_fb _ _), pixel_flipPixel]
    by_cases hcell : fbCol a = fbCol x ∧ fbRow b = fbRow y
    · simp [hcell]
    · simp [hcell]
  flag := by
    have hhit : Collides (fun col row => col = fbCol x ∧ row = fbRow y) s ↔ s.pixel x y = true :=
      ⟨fun ⟨a, b, ⟨ha, hb⟩, h⟩ => pixel_congr s ha hb ▸ h, fun h => ⟨x, y, ⟨rfl, rfl⟩, h⟩⟩
    rw [hhit]
    cases s.pixel x y
    · exact .inr ⟨Bool.false_ne_true, rfl⟩
    · exact .inl ⟨rfl, reg_setReg_self _ vf 1⟩
  frame := frame_trans (frame_mono (fun _ => .inr) (frame_flipPixel s x y)) (frame_noteCollision _ _)

/-- A loop whose turns invert disjoint sets of cells inverts their union. -/
theorem inverts_foldl_range {f : State → Nat → State} {P : Nat → Nat → Nat → Prop} {s : State} {n : Nat}
    (hturn : ∀ k, k < n → Inverts (P k) ((List.range k).foldl f s) (f ((List.range k).foldl f s) k))
    (hdis : ∀ j k, j < k → k < n → ∀ col row, P j col row → ¬P k col row) :
    Inverts (fun col row => ∃ k, k < n ∧ P k col row) s ((List.range n).foldl f s) := by
  induction n with
  | zero => exact inverts_refl (by simp) s
  | succ n ih =>
    have hfirst := ih (fun k hk => hturn k (by omega)) (fun j k hjk hk => hdis j k hjk (by omega))
    have hlast := inverts_trans (fun col row ⟨j, hj, hP⟩ => hdis j n hj (by omega) col row hP) hfirst
      (hturn n (by omega))
    rw [List.range_succ, List.foldl_concat]
    simpa only [Nat.lt_succ_iff_lt_or_eq, or_and_right, exists_or, exists_eq_left] using hlast

/-! ## The loops of a draw (R133) -/

/-- Bit `c` of a sprite byte is 1 and lands on this cell: the byte is drawn from column `x0` on row `y`. -/
def PixelCovers (x0 y : Nat) (b : Byte) (c col row : Nat) : Prop :=
  spriteBit b c = true ∧ (x0 + c) % 64 = col ∧ y % 32 = row

/-- A 1 bit of a sprite byte lands on this cell. -/
def RowCovers (x0 y : Nat) (b : Byte) (col row : Nat) : Prop := ∃ c, c < 8 ∧ PixelCovers x0 y b c col row

/-- A sprite covers what its bytes cover, row by row. -/
theorem covers_eq_rowCovers (s : State) (x y : RegIdx) (n : BitVec 4) :
    Covers s x y n = fun col row => ∃ r, r < n.toNat ∧
      RowCovers (s.reg x).toNat ((s.reg y).toNat + r) (s.memRead (s.effAddr r)) col row :=
  rfl

/-- Bits in different columns of the 64 land on different cells. -/
theorem pixelCovers_disjoint {x0 y c d col row : Nat} {b : Byte} (hcd : c < d) (hd : d < 8)
    (h : PixelCovers x0 y b c col row) : ¬PixelCovers x0 y b d col row := by
  obtain ⟨-, hc, -⟩ := h
  rintro ⟨-, hd', -⟩
  omega

/-- Bytes on different rows of the 32 cover different cells. -/
theorem rowCovers_disjoint {x0 y0 r q col row : Nat} {b b' : Byte} (hrq : r < q) (hq : q < 16)
    (h : RowCovers x0 (y0 + r) b col row) : ¬RowCovers x0 (y0 + q) b' col row := by
  obtain ⟨c, -, -, -, hr⟩ := h
  rintro ⟨d, -, -, -, hq'⟩
  omega

theorem drawPixel_of_set (x0 y : Nat) {b : Byte} (s : State) {c : Nat} (h : spriteBit b c = true) :
    drawPixel x0 y b s c = (s.flipPixel (x0 + c : Nat) y).noteCollision (s.pixel (x0 + c : Nat) y) :=
  if_pos h

theorem drawPixel_of_clear (x0 y : Nat) {b : Byte} (s : State) {c : Nat} (h : ¬spriteBit b c = true) :
    drawPixel x0 y b s c = s :=
  if_neg h

/-- One column: a 1 bit inverts its cell, a 0 bit none. -/
theorem drawPixel_inverts (x0 y : Nat) (b : Byte) (s : State) (c : Nat) :
    Inverts (PixelCovers x0 y b c) s (drawPixel x0 y b s c) := by
  by_cases hbit : spriteBit b c = true
  · have hcell : PixelCovers x0 y b c =
        fun col row => col = fbCol (x0 + c : Nat) ∧ row = fbRow (y : Nat) := by
      funext col row
      simp only [PixelCovers, hbit, true_and, fbCol_natCast, fbRow_natCast, eq_comm]
    rw [drawPixel_of_set x0 y s hbit, hcell]
    exact flipPixel_noteCollision_inverts s _ _
  · rw [drawPixel_of_clear x0 y s hbit]
    exact inverts_refl (fun _ _ h => hbit h.1) s

/-- One sprite row (R133): its columns land on different cells. -/
theorem drawRow_inverts (x0 y0 : Nat) (s : State) (r : Nat) :
    Inverts (RowCovers x0 (y0 + r) (s.memRead (s.effAddr r))) s (drawRow x0 y0 s r) :=
  inverts_foldl_range (fun c _ => drawPixel_inverts x0 (y0 + r) _ _ c)
    fun _ _ hcd hd _ _ => pixelCovers_disjoint hcd hd

/-- The byte that a later turn of a draw reads is the one in memory at first. -/
theorem memRead_effAddr_draw (x0 y0 : Nat) (l : List Nat) (s : State) (r : Nat) :
    (l.foldl (drawRow x0 y0) s).memRead ((l.foldl (drawRow x0 y0) s).effAddr r) = s.memRead (s.effAddr r) := by
  rw [draw_eq]
  rfl

/-- DXYN clears VF and then inverts the covered cells: its rows land on different rows of the grid (R133). -/
theorem exec_drw_inverts (x y : RegIdx) (n : BitVec 4) (s : State) :
    ∃ t, exec (.drw x y n) s = .next t ∧ Inverts (Covers s x y n) s.clearCollision t := by
  rw [covers_eq_rowCovers]
  refine ⟨_, rfl, inverts_foldl_range (fun r _ => ?_)
    fun _ _ hrq hq _ _ => rowCovers_disjoint hrq (hq.trans n.isLt)⟩
  have hrow := drawRow_inverts (s.reg x).toNat (s.reg y).toNat
    ((List.range r).foldl (drawRow (s.reg x).toNat (s.reg y).toNat) s.clearCollision) r
  rwa [memRead_effAddr_draw] at hrow

/-! ## The draw as a whole -/

theorem covers_in_grid {s : State} {x y : RegIdx} {n : BitVec 4} {col row : Nat} (h : Covers s x y n col row) :
    col < 64 ∧ row < 32 := by
  obtain ⟨r, -, c, -, -, hcol, hrow⟩ := h
  omega

/-- The cells are the pixels with coordinates in the grid. -/
theorem inverts_pixel_cell {P : Nat → Nat → Prop} {s t : State} (h : Inverts P s t) {col row : Nat}
    (hcol : col < 64) (hrow : row < 32) :
    t.pixel col row = true ↔ ¬(s.pixel col row = true ↔ P col row) := by
  rw [h.pixel, fbCol_natCast, fbRow_natCast, Nat.mod_eq_of_lt hcol, Nat.mod_eq_of_lt hrow]

/-- A collision of a draw is one with a set pixel, named by its own column and row, that the sprite covers. -/
theorem collides_covers_iff (s t : State) (x y : RegIdx) (n : BitVec 4) :
    Collides (Covers s x y n) t ↔ ∃ col row : Nat, Covers s x y n col row ∧ t.pixel col row = true := by
  constructor
  · rintro ⟨a, b, hab, h⟩
    refine ⟨fbCol a, fbRow b, hab, ?_⟩
    rwa [pixel_congr t (x' := a) (y' := b)]
    · rw [fbCol_natCast, Nat.mod_eq_of_lt (fbCol_lt a)]
    · rw [fbRow_natCast, Nat.mod_eq_of_lt (fbRow_lt b)]
  · rintro ⟨col, row, hcr, h⟩
    obtain ⟨hcol, hrow⟩ := covers_in_grid hcr
    refine ⟨col, row, ?_, h⟩
    rwa [fbCol_natCast, fbRow_natCast, Nat.mod_eq_of_lt hcol, Nat.mod_eq_of_lt hrow]

theorem pixel_clearCollision (s : State) (a b : Int) : s.clearCollision.pixel a b = s.pixel a b :=
  rfl

/-- Since a draw clears VF first, VF ends as the flag of a collision. -/
theorem inverts_clearCollision_vf {P : Nat → Nat → Prop} {s t : State} (h : Inverts P s.clearCollision t) :
    (Collides P s ∧ t.reg vf = 1) ∨ (¬Collides P s ∧ t.reg vf = 0) := by
  have h0 : s.clearCollision.reg vf = 0 := reg_setReg_self s vf 0
  exact h0 ▸ h.flag

theorem inverts_clearCollision_vf_eq_one_iff {P : Nat → Nat → Prop} {s t : State}
    (h : Inverts P s.clearCollision t) : t.reg vf = 1 ↔ Collides P s := by
  obtain ⟨hc, hvf⟩ | ⟨hc, hvf⟩ := inverts_clearCollision_vf h
  · simp [hc, hvf]
  · simp [hc, hvf]

theorem inverts_clearCollision_frame {P : Nat → Nat → Prop} {s t : State} (h : Inverts P s.clearCollision t) :
    Frame DrawWrites s t :=
  frame_trans (frame_mono (fun _ => .inl) (frame_setReg s vf 0)) h.frame

/-- A draw whose coordinates are not in VF leaves all that the next draw reads (R134). -/
theorem covers_after_drw {x y : RegIdx} {n : BitVec 4} {s t : State} (hx : x ≠ vf) (hy : y ≠ vf)
    (h : exec (.drw x y n) s = .next t) (hframe : Frame DrawWrites s t) : Covers t x y n = Covers s x y n := by
  obtain ⟨hi, -, -, -, -, hmem, -⟩ := Proofs.onlyTheNamedInstructionsWriteEachPart _ s t h
  have hregx : t.reg x = s.reg x := hframe (.reg x) (by simp [DrawWrites, hx])
  have hregy : t.reg y = s.reg y := hframe (.reg y) (by simp [DrawWrites, hy])
  have hi : t.i = s.i := by simpa using hi
  have hmem : t.mem = s.mem := by simpa using hmem
  unfold Covers
  simp only [hregx, hregy, State.effAddr, hi, memRead_of_mem_eq hmem]

end Sys2Proof.Laws

namespace Sys2Proof.Proofs

open Sys2Proof.Machine Sys2Proof.Laws

/-! ## The display rules -/

/-- Settles O52: a pixel, and so the toggle, depends on the cell alone that the coordinates name, and the flip inverts
that one cell. -/
theorem togglePixelWrapsAndInverts : Obligations.TogglePixelWrapsAndInverts := by
  intro s x y
  refine ⟨pixel_eq_fbCell s x y, rfl, fun x' y' => ?_, fun j k => togglePixel_congr s ?_ ?_, frame_flipPixel s x y⟩
  · simp only [State.togglePixel, pixel_flipPixel, fbCol_eq_iff, fbRow_eq_iff]
  · rw [fbCol_eq_iff]
    omega
  · rw [fbRow_eq_iff]
    omega

/-- Settles O53: the word is that of CLS, and CLS writes the framebuffer alone. -/
theorem clearScreenClearsEveryPixel : Obligations.ClearScreenClearsEveryPixel :=
  ⟨decodeWord_encode .cls, fun s => ⟨_, rfl, fun _ _ => pixel_clearFb s _ _, frame_clearFb s⟩⟩

/-- Settles O54: the loops invert the covered cells one after the other (`exec_drw_inverts`), and VF starts at 0. -/
theorem drawInvertsExactlyTheCoveredPixels : Obligations.DrawInvertsExactlyTheCoveredPixels := by
  intro x y n s
  obtain ⟨t, hexec, h⟩ := exec_drw_inverts x y n s
  refine ⟨t, hexec, fun col row => inverts_pixel_cell h, ?_, ?_, inverts_clearCollision_frame h⟩
  · exact (inverts_clearCollision_vf h).symm.imp And.right And.right
  · rw [inverts_clearCollision_vf_eq_one_iff h, collides_covers_iff]

/-- Settles O55: the second draw covers the cells of the first (`covers_after_drw`), and a covered pixel is set before
it exactly when the first draw found it clear. -/
theorem drawingTwiceRestoresTheScreen : Obligations.DrawingTwiceRestoresTheScreen := by
  intro x y n s hx hy
  obtain ⟨t, hexec, ht⟩ := exec_drw_inverts x y n s
  obtain ⟨u, hexec', hu⟩ := exec_drw_inverts x y n t
  rw [covers_after_drw hx hy hexec (inverts_clearCollision_frame ht)] at hu
  refine ⟨t, u, hexec, hexec', fun a b => ?_, ?_⟩
  · rw [Bool.eq_iff_iff, hu.pixel, pixel_clearCollision, ht.pixel, pixel_clearCollision]
    tauto
  · rw [inverts_clearCollision_vf_eq_one_iff hu, collides_covers_iff]
    refine exists_congr fun col => exists_congr fun row => and_congr_right fun hcr => ?_
    obtain ⟨hcol, hrow⟩ := covers_in_grid hcr
    rw [inverts_pixel_cell ht hcol hrow, pixel_clearCollision]
    simp [hcr]

end Sys2Proof.Proofs
end

section
/-! The keys and timers family: the two key skips, the wait for a key and the press that answers it, and the moves
between `V[X]` and the timers (45_keys_and_timers R140 to R146). -/

namespace Sys2Proof.Laws

open Sys2Proof.Machine

/-! ## Keys -/

/-- The key a register value names is its value mod 16 (R140, D18). -/
theorem keySelect_toNat (b : Byte) : (keySelect b).toNat = b.toNat % 16 := by
  rw [keySelect, BitVec.extractLsb'_toNat, Nat.shiftRight_zero]

/-- A key code is the register value that it becomes (R164, D36). -/
theorem keyCode_setWidth_toNat (k : KeyCode) : (k.setWidth 8).toNat = k.toNat :=
  BitVec.toNat_setWidth_of_le (by decide)

/-! ## The wait for a key (R143, R164) -/

theorem frame_awaitKey (s : State) (x : RegIdx) : Frame (fun p => p = .paused ∨ p = .waitReg) s (s.awaitKey x) := by
  intro p hp
  cases p with
  | paused => exact absurd (.inl rfl) hp
  | waitReg => exact absurd (.inr rfl) hp
  | _ => rfl

/-- Whether or not a request was pending, none is after `KeyDown`. -/
theorem keyDown_paused (s : State) (k : KeyCode) : (s.keyDown k).paused = false := by
  cases hp : s.paused
  · rw [keyDown_of_running k hp]; exact hp
  · rw [keyDown_of_paused k hp]

theorem keyDown_pc (s : State) (k : KeyCode) : (s.keyDown k).pc = s.pc := by
  cases hp : s.paused
  · rw [keyDown_of_running k hp]; rfl
  · rw [keyDown_of_paused k hp]; rfl

/-- The answer to a pending request goes to `V[WAIT_REG]` and to no other register. -/
theorem reg_keyDown_of_paused {s : State} (k : KeyCode) (h : s.paused = true) (y : RegIdx) :
    (s.keyDown k).reg y = if s.waitReg = y then k.setWidth 8 else s.reg y := by
  rw [keyDown_of_paused k h]
  exact reg_setReg (s.setKey k true) s.waitReg y _

/-- Where a request is pending and a key press is next, the step answers the request and the core runs again. -/
theorem step_answers_request {s : State} {k : KeyCode} {es : List HostEvent} (h0 : s.slot = 0)
    (he : s.events = .keyDown k :: es) (hp : s.paused = true) :
    ∃ u, step s = .next u ∧ (u.reg s.waitReg).toNat = k.toNat ∧ u.paused = false ∧ u.pc = s.pc ∧
      ∀ y, y ≠ s.waitReg → u.reg y = s.reg y := by
  have hreg := reg_keyDown_of_paused (s := { s with events := es }) k hp
  refine ⟨_, step_of_event h0 he, ?_, keyDown_paused _ k, keyDown_pc _ k, fun y hy => ?_⟩
  · rw [hreg, if_pos rfl, keyCode_setWidth_toNat]
  · exact (hreg y).trans (if_neg hy.symm)

/-! ## Timers -/

theorem frame_setDt (s : State) (b : Byte) : Frame (fun p => p = .dt) s { s with dt := b } := by
  intro p hp
  cases p with
  | dt => exact absurd rfl hp
  | _ => rfl

theorem frame_setSt (s : State) (b : Byte) : Frame (fun p => p = .st) s { s with st := b } := by
  intro p hp
  cases p with
  | st => exact absurd rfl hp
  | _ => rfl

end Sys2Proof.Laws

namespace Sys2Proof.Proofs

open Sys2Proof.Machine Sys2Proof.Laws

/-! ## The keys and timers rules -/

/-- Settles O17: the FX0A leaves a pending request for `V[X]`, so the step that delivers the key press answers it. -/
theorem keyPressCompletesTheWait : Obligations.KeyPressCompletesTheWait := by
  intro x k s t es h
  cases h
  exact step_answers_request (s := { s.awaitKey x with slot := 0, events := .keyDown k :: es }) rfl rfl rfl

/-- Settles O56: `k` is the key that the skip selects; both are skips, on the key's bit and on its negation. -/
theorem keySkips : Obligations.KeySkips := by
  intro x s k hk
  obtain rfl : k = keySelect (s.reg x) := BitVec.eq_of_toNat_eq (by rw [hk, keySelect_toNat])
  refine ⟨⟨_, rfl, skipIf_pc s _, frame_skipIf s _⟩, ⟨_, rfl, ?_, frame_skipIf s _⟩⟩
  rw [skipIf_pc]
  cases s.keyBit (keySelect (s.reg x)) <;> rfl

/-- Settles O57: each of the three is one write, of `V[X]`, of DT or of ST. -/
theorem timerInstructions : Obligations.TimerInstructions :=
  fun x s => ⟨⟨_, rfl, setReg_writes s x s.dt⟩, ⟨_, rfl, rfl, frame_setDt s _⟩, ⟨_, rfl, rfl, frame_setSt s _⟩⟩

/-- Settles O58: the meaning of FX0A is the registered request, and it does not look at the keys. -/
theorem waitForKeyOnlyRegistersTheRequest : Obligations.WaitForKeyOnlyRegistersTheRequest :=
  fun x s => ⟨_, rfl, awaitKey_paused s x, awaitKey_waitReg s x, frame_awaitKey s x⟩

end Sys2Proof.Proofs
end

section
/-! The exceptions family: the fault entry, the halted and the paused core, the end of a tick, the slots of a tick
against the whole `Tick()`, and the delivery of key events (60_exceptions R150 to R168). -/

namespace Sys2Proof.Laws

open Sys2Proof.Machine

/-! ## Frames of the host's events and of a tick's end -/

theorem frame_setEvents (s : State) (es : List HostEvent) :
    Frame (fun p => p = .events) s { s with events := es } := by
  intro p hp
  cases p with
  | events => exact absurd rfl hp
  | _ => rfl

theorem frame_setPaused (s : State) (b : Bool) : Frame (fun p => p = .paused) s { s with paused := b } := by
  intro p hp
  cases p with
  | paused => exact absurd rfl hp
  | _ => rfl

theorem frame_refreshTone (s : State) : Frame (fun p => p = .tone) s s.refreshTone := by
  intro p hp
  cases p with
  | tone => exact absurd rfl hp
  | _ => rfl

theorem frame_fireRender (s : State) : Frame (fun p => p = .renders) s s.fireRender := by
  intro p hp
  cases p with
  | renders => exact absurd rfl hp
  | _ => rfl

/-- What the end of a tick writes besides the timers (R162, R163). -/
theorem frame_refreshTone_fireRender_setSlot (s : State) (n : Nat) :
    Frame (fun p => p = .slot ∨ p = .tone ∨ p = .renders) s (s.refreshTone.fireRender.setSlot n) :=
  frame_trans (frame_mono (fun _ e => .inr (.inl e)) (frame_refreshTone s)) <|
    frame_trans (frame_mono (fun _ e => .inr (.inr e)) (frame_fireRender _))
      (frame_mono (fun _ e => .inl e) (frame_setSlot _ n))

/-- While paused the decrement is left out (R161, R168). -/
theorem frame_endTick_of_paused {s : State} (h : s.paused = true) :
    Frame (fun p => p = .slot ∨ p = .tone ∨ p = .renders) s s.endTick := by
  have hdec : s.decTimers = s := if_pos h
  rw [State.endTick, hdec]
  exact frame_refreshTone_fireRender_setSlot s 0

theorem frame_decTimers (s : State) : Frame (fun p => p = .dt ∨ p = .st) s s.decTimers := by
  unfold State.decTimers
  split
  · exact frame_refl _ s
  · exact frame_trans (frame_mono (fun _ => .inl) (frame_setDt s (countDown s.dt)))
      (frame_mono (fun _ => .inr) (frame_setSt { s with dt := countDown s.dt } _))

theorem frame_endTick (s : State) :
    Frame (fun p => p = .slot ∨ p = .dt ∨ p = .st ∨ p = .tone ∨ p = .renders) s s.endTick :=
  frame_trans (frame_mono (by rintro p (e | e) <;> simp [e]) (frame_decTimers s))
    (frame_mono (by rintro p (e | e | e) <;> simp [e]) (frame_refreshTone_fireRender_setSlot _ 0))

/-! ## What follows an instruction within its step -/

theorem afterSlot_of_paused {s : State} (hh : s.halted = false) (hp : s.paused = true) :
    afterSlot s = s.endTick := by
  simp [afterSlot, hh, hp]

theorem afterSlot_of_last {s : State} (hh : s.halted = false) (hlast : s.params.speed ≤ s.slot + 1) :
    afterSlot s = s.endTick := by
  simp [afterSlot, hh, hlast]

theorem afterSlot_of_not_last {s : State} (hh : s.halted = false) (hp : s.paused = false)
    (hmore : s.slot + 1 < s.params.speed) : afterSlot s = s.setSlot (s.slot + 1) := by
  simp [afterSlot, hh, hp, hmore]

/-- What follows an instruction is the end of the tick, or it touches neither the tone nor a timer. -/
theorem afterSlot_ends_tick_or_keeps (s : State) :
    ((afterSlot s).renders = s.renders + 1 ∧ (afterSlot s).slot = 0) ∨
    ((afterSlot s).tone = s.tone ∧ (afterSlot s).dt = s.dt ∧ (afterSlot s).st = s.st) := by
  unfold afterSlot
  split
  · exact .inr ⟨rfl, rfl, rfl⟩
  · split
    · exact .inl ⟨by rw [endTick_eq], by rw [endTick_eq]⟩
    · exact .inr ⟨rfl, rfl, rfl⟩

/-! ## The step of a core that performs no instruction -/

theorem halted_inTick (s : State) : s.inTick.halted = s.halted := by rw [inTick_eq]

theorem paused_inTick (s : State) : s.inTick.paused = s.paused := by rw [inTick_eq]

theorem step_of_halted_tick {s : State} (ht : TickNext s) (hh : s.halted = true) :
    step s = .next (s.inTick.setSlot 0) := by
  rw [step_of_tickNext ht, tickSlot_of_halted ((halted_inTick s).trans hh)]

theorem step_of_paused_tick {s : State} (ht : TickNext s) (hh : s.halted = false) (hp : s.paused = true) :
    step s = .next s.inTick.endTick := by
  rw [step_of_tickNext ht, tickSlot_of_paused ((halted_inTick s).trans hh) ((paused_inTick s).trans hp)]

/-- A halted tick changes the slot count and the list of events alone (R155). -/
theorem frame_inTick_setSlot (s : State) (n : Nat) :
    Frame (fun p => p = .slot ∨ p = .events) s (s.inTick.setSlot n) :=
  frame_trans (frame_mono (fun _ => .inr) (frame_inTick s)) (frame_mono (fun _ => .inl) (frame_setSlot _ n))

/-! ## Every step answers -/

/-- Where the next step is no move of a tick, a host event other than `Tick` is next. -/
theorem exists_event_of_not_tickNext {s : State} (h : ¬ TickNext s) :
    s.slot = 0 ∧ ∃ e es, s.events = e :: es ∧ e ≠ .tick := by
  obtain ⟨h0, hne, htick⟩ : s.slot = 0 ∧ s.events ≠ [] ∧ s.events.head? ≠ some .tick := by
    simpa only [TickNext, not_or, not_not] using h
  obtain ⟨e, es, he⟩ := List.exists_cons_of_ne_nil hne
  exact ⟨h0, e, es, he, by simpa [he] using htick⟩

theorem stepOnce_answers (s : State) : ∃ t, stepOnce s = .next t :=
  execute_answers ..

theorem tickSlot_answers (s : State) : ∃ t, tickSlot s = .next t := by
  unfold tickSlot
  split
  · exact ⟨_, rfl⟩
  · split
    · exact ⟨_, rfl⟩
    · obtain ⟨t, ht⟩ := stepOnce_answers s
      exact ⟨_, by rw [ht, andThen_next]⟩

/-! ## Key events -/

theorem keyBit_setKey_self (s : State) (k : KeyCode) (b : Bool) : (s.setKey k b).keyBit k = b := by
  rw [keyBit_setKey, if_pos rfl]

theorem step_of_keyDown {s : State} {k : KeyCode} {es : List HostEvent} (h0 : s.slot = 0)
    (he : s.events = .keyDown k :: es) : step s = .next ({ s with events := es }.keyDown k) :=
  step_of_event h0 he

theorem keyDown_keyBit (s : State) (k : KeyCode) : (s.keyDown k).keyBit k = true := by
  cases hp : s.paused
  · rw [keyDown_of_running k hp]; exact keyBit_setKey_self s k true
  · rw [keyDown_of_paused k hp]; exact keyBit_setKey_self s k true

theorem keyDown_events (s : State) (k : KeyCode) : (s.keyDown k).events = s.events := by
  cases hp : s.paused
  · rw [keyDown_of_running k hp]; rfl
  · rw [keyDown_of_paused k hp]; rfl

/-- A key press changes neither the tone nor a timer. -/
theorem keyDown_tone_timers (s : State) (k : KeyCode) :
    (s.keyDown k).tone = s.tone ∧ (s.keyDown k).dt = s.dt ∧ (s.keyDown k).st = s.st := by
  cases hp : s.paused
  · rw [keyDown_of_running k hp]; exact ⟨rfl, rfl, rfl⟩
  · rw [keyDown_of_paused k hp]; exact ⟨rfl, rfl, rfl⟩

/-- An answered request writes `V[WAIT_REG]` and ends the wait (R164). -/
theorem frame_keyDown_of_paused {s : State} (k : KeyCode) (h : s.paused = true) :
    Frame (fun p => p = .keyAt k ∨ p = .paused ∨ p = .reg s.waitReg) s (s.keyDown k) := by
  rw [keyDown_of_paused k h]
  exact frame_trans (frame_mono (fun _ => .inl) (frame_setKey s k true)) <|
    frame_trans (frame_mono (fun _ e => .inr (.inr e)) (frame_setReg _ s.waitReg _))
      (frame_mono (fun _ e => .inr (.inl e)) (frame_setPaused _ false))

/-- The delivery of a key event as a whole: the event leaves the list, and the key's bit is written. -/
theorem frame_setEvents_setKey (s : State) (es : List HostEvent) (k : KeyCode) (b : Bool) :
    Frame (fun p => p = .keyAt k ∨ p = .events) s ({ s with events := es }.setKey k b) :=
  frame_trans (frame_mono (fun _ => .inr) (frame_setEvents s es)) (frame_mono (fun _ => .inl) (frame_setKey _ k b))

/-! ## Nothing but the end of a step looks at the slot count (log 3) -/

theorem setSlot_eq_self {s : State} {n : Nat} (h : s.slot = n) : s.setSlot n = s := by
  subst h; rfl

theorem setSlot_setSlot (s : State) (m n : Nat) : (s.setSlot m).setSlot n = s.setSlot n := rfl

theorem skipIf_setSlot (s : State) (n : Nat) (c : Bool) : (s.setSlot n).skipIf c = (s.skipIf c).setSlot n := by
  cases c <;> rfl

theorem memWriteBytes_setSlot (s : State) (n a : Nat) (bs : List Byte) :
    (s.setSlot n).memWriteBytes a bs = (s.memWriteBytes a bs).setSlot n := by
  induction bs generalizing s a with
  | nil => rfl
  | cons b bs ih => exact ih (s.memWrite a b) (a + 1)

theorem noteCollision_setSlot (s : State) (n : Nat) (hit : Bool) :
    (s.setSlot n).noteCollision hit = (s.noteCollision hit).setSlot n := by
  cases hit <;> rfl

theorem drawPixel_setSlot (x0 y : Nat) (b : Byte) (n : Nat) (s : State) (c : Nat) :
    drawPixel x0 y b (s.setSlot n) c = (drawPixel x0 y b s c).setSlot n := by
  by_cases hbit : spriteBit b c = true
  · rw [drawPixel_of_set x0 y _ hbit, drawPixel_of_set x0 y _ hbit]
    exact noteCollision_setSlot (s.flipPixel (x0 + c : Nat) y) n _
  · rw [drawPixel_of_clear x0 y _ hbit, drawPixel_of_clear x0 y _ hbit]

theorem drawRow_setSlot (x0 y0 n : Nat) (s : State) (r : Nat) :
    drawRow x0 y0 (s.setSlot n) r = (drawRow x0 y0 s r).setSlot n :=
  List.foldl_hom (fun t : State => t.setSlot n) (drawPixel_setSlot x0 (y0 + r) _ n)

/-- An instruction neither reads nor writes the slot count. -/
theorem exec_setSlot (i : Instr) (s : State) (n : Nat) :
    exec i (s.setSlot n) = andThen (exec i s) fun t => .next (t.setSlot n) := by
  cases i with
  | ret =>
    rcases Nat.eq_zero_or_pos s.sp.val with h | h
    · rw [exec_ret_of_empty h, exec_ret_of_empty (s := s.setSlot n) h]; rfl
    · rw [exec_ret_of_pos h, exec_ret_of_pos (s := s.setSlot n) h]; rfl
  | call nnn =>
    by_cases h : s.sp.val < 16
    · rw [exec_call_of_lt nnn h, exec_call_of_lt nnn (s := s.setSlot n) h]; rfl
    · have hfull : s.sp.val = 16 := by omega
      rw [exec_call_of_full nnn hfull, exec_call_of_full nnn (s := s.setSlot n) hfull]; rfl
  | seImm | sneImm | seReg | sneReg | skp | sknp =>
    exact congrArg Host.Outcome.next (skipIf_setSlot s n _)
  | drw x y h =>
    exact congrArg Host.Outcome.next
      (List.foldl_hom (fun t : State => t.setSlot n) (drawRow_setSlot _ _ n) (init := s.clearCollision))
  | ldB x => exact congrArg Host.Outcome.next (memWriteBytes_setSlot s n _ _)
  | ldMemVx | ldVxMem =>
    exact congrArg Host.Outcome.next (List.foldl_hom (fun t : State => t.setSlot n) fun _ _ => rfl)
  | _ => rfl

theorem stepOnce_setSlot (s : State) (n : Nat) :
    stepOnce (s.setSlot n) = andThen (stepOnce s) fun t => .next (t.setSlot n) := by
  cases hd : decodeWord (s.fetchWord s.pc.toNat) with
  | ok i =>
    have h := exec_setSlot i s.advance n
    rw [← execute_of_ok hd s.pc, ← execute_of_ok hd s.pc] at h
    exact h
  | error e =>
    have h (t : State) := execute_of_error hd s.pc t
    simp only [stepOnce]
    rw [h]
    exact h _

theorem stepOnce_keeps_params_slot {s t : State} (h : stepOnce s = .next t) :
    t.params = s.params ∧ t.slot = s.slot := by
  simp only [stepOnce, execute] at h
  split at h
  · obtain ⟨-, hparams, hslot⟩ := exec_keeps_key_params_slot h
    exact ⟨hparams, hslot⟩
  · cases h
    exact ⟨rfl, rfl⟩

theorem endTick_setSlot (s : State) (n : Nat) : (s.setSlot n).endTick = s.endTick := by
  cases hp : s.paused
  · rw [endTick_of_running hp, endTick_of_running (s := s.setSlot n) hp]; rfl
  · rw [endTick_of_paused hp, endTick_of_paused (s := s.setSlot n) hp]; rfl

/-! ## The whole tick and its slots (R160) -/

/-- What R160 does after the slots of a tick: nothing where the core is halted, else the end of the tick. -/
def finishTick (s : State) : Result := if s.halted then .next s else .next s.endTick

theorem finishTick_of_halted {s : State} (h : s.halted = true) : finishTick s = .next s := if_pos h

theorem finishTick_of_not_halted {s : State} (h : s.halted = false) : finishTick s = .next s.endTick :=
  if_neg (Bool.eq_false_iff.1 h)

theorem tick_of_halted {s : State} (h : s.halted = true) : tick s = .next s := if_pos h

theorem tick_of_not_halted {s : State} (h : s.halted = false) :
    tick s = andThen (runSlots s.params.speed s) finishTick :=
  if_neg (Bool.eq_false_iff.1 h)

/-- A halted or a paused core skips all its slots (R160). -/
theorem runSlots_of_stopped {s : State} (h : s.halted = true ∨ s.paused = true) (n : Nat) :
    runSlots n s = .next s := by
  induction n with
  | zero => rfl
  | succ n ih =>
    have hstop : ¬ (!s.paused && !s.halted) = true := by rcases h with h | h <;> simp [h]
    rw [runSlots, if_neg hstop, ih]

theorem runSlots_of_running {s : State} (hh : s.halted = false) (hp : s.paused = false) (n : Nat) :
    runSlots (n + 1) s = andThen (stepOnce s) (runSlots n) := by
  simp [runSlots, hh, hp]

/-- A step inside a tick is a move of the tick. -/
theorem step_of_slot_ne_zero {s : State} (h : s.slot ≠ 0) : step s = tickSlot s := if_neg h

/-- `k` steps of the core, at the model's own types. -/
def runSteps (k : Nat) (s : State) : Result := core.run k s

theorem runSteps_zero (s : State) : runSteps 0 s = .next s := rfl

theorem runSteps_succ (k : Nat) (s : State) : runSteps (k + 1) s = andThen (step s) (runSteps k) := by
  simp only [runSteps, Host.Core.run]
  change _ = andThen (core.step s) (runSteps k)
  cases core.step s <;> rfl

/-- Where the slots of a tick are over, what follows the last instruction is what R160 does after the slots. -/
theorem finishTick_setSlot_zero {s : State}
    (h : s.halted = true ∨ s.paused = true ∨ s.params.speed ≤ s.slot + 1) :
    finishTick (s.setSlot 0) = .next (afterSlot s) := by
  cases hh : s.halted
  · have hover : afterSlot s = s.endTick := by
      rcases h with h | hp | hlast
      · rw [hh] at h; cases h
      · exact afterSlot_of_paused hh hp
      · exact afterSlot_of_last hh hlast
    rw [finishTick_of_not_halted (s := s.setSlot 0) hh, endTick_setSlot, hover]
  · rw [finishTick_of_halted (s := s.setSlot 0) hh, afterSlot_of_halted hh]

/-- With `n + 1` slots of a tick left to a running core, its next move of the tick and at most `n` steps after it give
what R160 gives for these slots. -/
theorem moves_of_running_are_slots (n : Nat) {s : State} (hh : s.halted = false) (hp : s.paused = false)
    (hleft : s.slot + (n + 1) = s.params.speed) :
    ∃ k ≤ n, andThen (tickSlot s) (runSteps k) = andThen (runSlots (n + 1) (s.setSlot 0)) finishTick := by
  induction n using Nat.strong_induction_on generalizing s with
  | _ n ih =>
    obtain ⟨t, ht⟩ := stepOnce_answers s
    obtain ⟨hparams, hslot⟩ := stepOnce_keeps_params_slot ht
    rw [tickSlot_of_running hh hp, runSlots_of_running (s := s.setSlot 0) hh hp, stepOnce_setSlot, ht]
    simp only [andThen_next]
    by_cases hstop : t.halted = true ∨ t.paused = true
    · refine ⟨0, Nat.zero_le n, ?_⟩
      rw [runSlots_of_stopped (s := t.setSlot 0) hstop, andThen_next, finishTick_setSlot_zero (hstop.imp_right .inl),
        runSteps_zero]
    · obtain ⟨hth, htp⟩ : t.halted = false ∧ t.paused = false := by simpa using hstop
      cases n with
      | zero =>
        refine ⟨0, le_rfl, ?_⟩
        have hlast : t.params.speed ≤ t.slot + 1 := by rw [hparams, hslot]; omega
        exact (finishTick_setSlot_zero (.inr (.inr hlast))).symm
      | succ m =>
        have hmore : t.slot + 1 < t.params.speed := by rw [hparams, hslot]; omega
        have hleft' : t.slot + 1 + (m + 1) = t.params.speed := by rw [hparams, hslot]; omega
        obtain ⟨k, hk, hrun⟩ := ih m (Nat.lt_succ_self m) (s := t.setSlot (t.slot + 1)) hth htp hleft'
        refine ⟨k + 1, Nat.succ_le_succ hk, ?_⟩
        rw [afterSlot_of_not_last hth htp hmore, runSteps_succ, step_of_slot_ne_zero (Nat.succ_ne_zero _), hrun,
          setSlot_setSlot]

/-- The moves of a tick, from its first on, give what `Tick()` gives (R160). -/
theorem moves_are_tick {s : State} (h0 : s.slot = 0) (hspeed : 1 ≤ s.params.speed) :
    ∃ k, k + 1 ≤ s.params.speed ∧ andThen (tickSlot s) (runSteps k) = tick s := by
  cases hh : s.halted
  · rw [tick_of_not_halted hh]
    cases hp : s.paused
    · obtain ⟨n, hn⟩ := Nat.exists_eq_add_of_le' hspeed
      obtain ⟨k, hk, hrun⟩ := moves_of_running_are_slots n hh hp (by omega)
      refine ⟨k, by omega, ?_⟩
      rw [hrun, setSlot_eq_self h0, hn]
    · refine ⟨0, hspeed, ?_⟩
      rw [tickSlot_of_paused hh hp, runSlots_of_stopped (.inr hp), andThen_next, andThen_next,
        finishTick_of_not_halted hh, runSteps_zero]
  · refine ⟨0, hspeed, ?_⟩
    rw [tickSlot_of_halted hh, setSlot_eq_self h0, tick_of_halted hh, andThen_next, runSteps_zero]

/-! ## When the tone and the timers change -/

/-- What a step can do to the tone and the timers (R28): it delivers a `Reset`, or keeps all three, or ends the tick of
a paused or of a running core, or performs an instruction that may be the timer's own, and no more. -/
theorem step_tone_timers_cases {s t : State} (h : step s = .next t) :
    (s.slot = 0 ∧ ∃ image es, s.events = .reset image :: es) ∨
    (t.tone = s.tone ∧ t.dt = s.dt ∧ t.st = s.st) ∨
    (TickNext s ∧ s.halted = false ∧ t.dt = s.dt ∧ t.st = s.st ∧ t.renders = s.renders + 1 ∧ t.slot = 0) ∨
    (Running s ∧ t.renders = s.renders + 1 ∧ t.slot = 0) ∨
    (Running s ∧ t.tone = s.tone ∧
      (t.dt ≠ s.dt → ∃ x, decodeWord (s.fetchWord s.pc.toNat) = .ok (.ldDtVx x)) ∧
      (t.st ≠ s.st → ∃ x, decodeWord (s.fetchWord s.pc.toNat) = .ok (.ldStVx x))) := by
  rcases step_cases h with ⟨image, es, h0, he, -⟩ | ⟨k, es, -, -, rfl⟩ | ⟨k, es, -, -, rfl⟩ | ⟨-, -, rfl⟩ |
    ⟨ht, hh, hp, rfl⟩ | ⟨hr, i, u, hd, hu, rfl⟩ | ⟨-, -, rfl⟩
  · exact .inl ⟨h0, image, es, he⟩
  · exact .inr (.inl (keyDown_tone_timers _ k))
  · exact .inr (.inl ⟨rfl, rfl, rfl⟩)
  · rw [inTick_eq]
    exact .inr (.inl ⟨rfl, rfl, rfl⟩)
  · rw [endTick_of_paused ((paused_inTick s).trans hp), inTick_eq]
    exact .inr (.inr (.inl ⟨ht, hh, rfl, rfl, rfl, rfl⟩))
  · obtain ⟨-, -, -, hdt, hst, -, -, -, -, -, -, htone, -, -, hrenders, -⟩ :=
      Proofs.onlyTheNamedInstructionsWriteEachPart i _ u hu
    rw [inTick_eq] at hdt hst htone hrenders
    obtain ⟨hr', h0⟩ | ⟨htone', hdt', hst'⟩ := afterSlot_ends_tick_or_keeps u
    · exact .inr (.inr (.inr (.inl ⟨hr, hr'.trans (congrArg (· + 1) hrenders), h0⟩)))
    · refine .inr (.inr (.inr (.inr ⟨hr, htone'.trans htone, fun hne => ?_, fun hne => ?_⟩)))
      · obtain ⟨x, rfl⟩ := hdt (hdt' ▸ hne)
        exact ⟨x, hd⟩
      · obtain ⟨x, rfl⟩ := hst (hst' ▸ hne)
        exact ⟨x, hd⟩
  · rw [afterSlot_of_halted rfl, inTick_eq]
    exact .inr (.inl ⟨rfl, rfl, rfl⟩)

end Sys2Proof.Laws

namespace Sys2Proof.Proofs

open Sys2Proof.Machine Sys2Proof.Laws

/-! ## The exceptions rules -/

/-- Settles O11: the first step is the tick's first move, and each later one uses the next slot (`moves_are_tick`). -/
theorem stepsOfATickAreTheTick : Obligations.StepsOfATickAreTheTick := by
  intro s h0 ht hspeed
  have hslot : s.inTick.slot = 0 := by rw [inTick_eq]; exact h0
  have hparams : s.inTick.params = s.params := by rw [inTick_eq]
  obtain ⟨k, hk, hrun⟩ := moves_are_tick hslot (by rwa [hparams])
  refine ⟨k + 1, Nat.succ_pos k, by rwa [hparams] at hk, ?_⟩
  exact (runSteps_succ k s).trans (by rw [step_of_tickNext ht, hrun])

/-- Settles O6: the instruction's step goes on with `afterSlot`, whose four cases are the four of the statement. -/
theorem tickEndsAfterItsLastSlot : Obligations.TickEndsAfterItsLastSlot := by
  intro s t i hr hd he
  refine ⟨afterSlot t, ?_, fun hh => ?_, fun hh hp => ?_, fun hh hp hmore => ?_, fun hh hp hlast => ?_⟩
  · rw [step_of_running hr, execute_of_ok hd, he, andThen_next]
  · rw [afterSlot_of_halted hh]
    exact ⟨rfl, frame_setSlot t 0⟩
  · rw [afterSlot_of_paused hh hp]
    exact ⟨rfl, by rw [endTick_of_paused hp], by rw [endTick_of_paused hp], frame_endTick_of_paused hp⟩
  · rw [afterSlot_of_not_last hh hp hmore]
    exact ⟨rfl, frame_setSlot t _⟩
  · rw [afterSlot_of_last hh hlast]
    refine ⟨rfl, ?_, ?_, rfl, by rw [endTick_eq], frame_endTick t⟩
    · rw [endTick_of_running hp]; exact countDown_toNat t.dt
    · rw [endTick_of_running hp]; exact countDown_toNat t.st

/-- Settles O9: the step of a paused core is the end of its tick, without a decrement. -/
theorem pausedTickOnlyRefreshesTheTone : Obligations.PausedTickOnlyRefreshesTheTone := by
  intro s ht hh hp
  have hp' : s.inTick.paused = true := (paused_inTick s).trans hp
  refine ⟨_, step_of_paused_tick ht hh hp, ?_, ?_, rfl, ?_⟩
  · rw [endTick_of_paused hp', inTick_eq]
  · rw [endTick_eq, inTick_eq]
  · exact frame_trans (frame_mono (fun _ e => .inr (.inr (.inr e))) (frame_inTick s))
      (frame_mono (by rintro p (e | e | e) <;> simp [e]) (frame_endTick_of_paused hp'))

/-- Settles O10: the step of a halted core sets the slot count and takes a listed `Tick` off the list. -/
theorem haltedTickChangesNothing : Obligations.HaltedTickChangesNothing :=
  fun s ht hh => ⟨_, step_of_halted_tick ht hh, frame_inTick_setSlot s 0⟩

/-- Settles O15, by whether a request is pending: without one `KeyDown` sets the bit alone, with one it answers it. -/
theorem keyDownSetsTheKeyAndAnswersTheRequest : Obligations.KeyDownSetsTheKeyAndAnswersTheRequest := by
  intro s k es h0 he
  refine ⟨_, step_of_keyDown h0 he, keyDown_keyBit _ k, keyDown_events _ k, fun hp => ?_,
    fun hp => ⟨keyDown_paused _ k, ?_, ?_⟩⟩
  · rw [keyDown_of_running (s := { s with events := es }) k hp]
    exact frame_setEvents_setKey s es k true
  · rw [reg_keyDown_of_paused (s := { s with events := es }) k hp, if_pos rfl, keyCode_setWidth_toNat]
  · exact frame_trans (frame_mono (fun _ e => .inr (.inl e)) (frame_setEvents s es))
      (frame_mono (by rintro p (e | e | e) <;> simp [e]) (frame_keyDown_of_paused (s := { s with events := es }) k hp))

/-- Settles O16: the delivery of `KeyUp` is one write of a key bit. -/
theorem keyUpClearsTheKeyAlone : Obligations.KeyUpClearsTheKeyAlone :=
  fun s k es h0 he =>
    ⟨_, step_of_event h0 he, keyBit_setKey_self _ k false, rfl, frame_setEvents_setKey s es k false⟩

/-- Settles O20: a move of the tick answers, and so does each event but a `Reset` whose image is too long. -/
theorem everyStepGoesOnUnlessTheImageIsTooLong : Obligations.EveryStepGoesOnUnlessTheImageIsTooLong := by
  intro s
  by_cases ht : TickNext s
  · rw [step_of_tickNext ht]
    exact .inl (tickSlot_answers _)
  · obtain ⟨h0, e, es, he, hne⟩ := exists_event_of_not_tickNext ht
    rw [step_of_event h0 he]
    cases e with
    | tick => exact absurd rfl hne
    | keyDown k => exact .inl ⟨_, rfl⟩
    | keyUp k => exact .inl ⟨_, rfl⟩
    | reset image =>
      by_cases hfits : image.length ≤ Config.progMax
      · exact .inl ⟨_, if_pos hfits⟩
      · exact .inr ⟨image, es, h0, he, Nat.lt_of_not_le hfits, if_neg hfits⟩

/-- Settles O25: of the instructions only RET and CALL write `HALTED` (O22), and each either takes its fault or leaves
the core running. -/
theorem aFaultWritesOnlyTheRecord : Obligations.AFaultWritesOnlyTheRecord := by
  intro i s t hh h ht
  obtain ⟨-, -, -, -, -, -, -, -, hrecord, -⟩ := onlyTheNamedInstructionsWriteEachPart i s t h
  have hne : t.halted ≠ s.halted := by rw [hh, ht]; decide
  obtain rfl | ⟨nnn, rfl⟩ := hrecord (.inl hne)
  · obtain ⟨h0, rfl⟩ | ⟨_, rfl⟩ := exec_ret_cases h
    · exact .inl ⟨rfl, h0, raise_faulted ..⟩
    · exact absurd rfl hne
  · obtain ⟨h16, rfl⟩ | ⟨_, rfl⟩ := exec_call_cases h
    · have hop : encode (.call nnn) = 0x2000#16 + nnn.setWidth 16 := fmtA_eq_add 0x2#4 nnn
      exact .inr ⟨nnn, rfl, h16, hop ▸ raise_faulted ..⟩
    · exact absurd rfl hne

/-- Settles O26, by what a step can have done: a `Reset` is named, a key event writes one key bit of a core that is not
paused, a halted tick writes the model's own fields, and the other moves are of a core that is not halted. -/
theorem haltedIsLeftOnlyByReset : Obligations.HaltedIsLeftOnlyByReset := by
  intro s t hh hp h
  rcases step_cases h with ⟨image, es, h0, he, -⟩ | ⟨k, es, -, -, rfl⟩ | ⟨k, es, -, -, rfl⟩ | ⟨-, -, rfl⟩ |
    ⟨-, hn, -⟩ | ⟨⟨-, hn, -⟩, -⟩ | ⟨⟨-, hn, -⟩, -⟩
  · exact .inl ⟨image, es, h0, he⟩
  · rw [keyDown_of_running (s := { s with events := es }) k hp]
    exact .inr ⟨hh, frame_mono (by rintro p (e | e) <;> simp [e]) (frame_setEvents_setKey s es k true)⟩
  · exact .inr ⟨hh, frame_mono (by rintro p (e | e) <;> simp [e]) (frame_setEvents_setKey s es k false)⟩
  · exact .inr ⟨(halted_inTick s).trans hh, frame_mono (fun _ => .inr) (frame_inTick_setSlot s 0)⟩
  · cases hh.symm.trans hn
  · cases hh.symm.trans hn
  · cases hh.symm.trans hn

/-- Settles O27, by what a step can have done: `KeyUp` and the tick of a paused or halted core keep `PAUSED`, and an
instruction is performed only by a core that is not paused. -/
theorem pauseIsEndedOnlyByKeyDownOrReset : Obligations.PauseIsEndedOnlyByKeyDownOrReset := by
  intro s t hp h ht
  rcases step_cases h with ⟨image, es, h0, he, -⟩ | ⟨k, es, h0, he, -⟩ | ⟨k, es, -, -, rfl⟩ | ⟨-, -, rfl⟩ |
    ⟨-, -, -, rfl⟩ | ⟨⟨-, -, hn⟩, -⟩ | ⟨⟨-, -, hn⟩, -⟩
  · exact ⟨h0, .inr ⟨image, es, he⟩⟩
  · exact ⟨h0, .inl ⟨k, es, he⟩⟩
  · cases hp.symm.trans ht
  · cases hp.symm.trans ((paused_inTick s).symm.trans ht)
  · rw [endTick_eq, inTick_eq] at ht
    cases hp.symm.trans ht
  · cases hp.symm.trans hn
  · cases hp.symm.trans hn

/-- Settles O29: `step_tone_timers_cases`, read for each of the three. -/
theorem timersAndToneChangeOnlyAtTheirMoments : Obligations.TimersAndToneChangeOnlyAtTheirMoments := by
  intro s t h
  rcases step_tone_timers_cases h with hreset | ⟨htone, hdt, hst⟩ | ⟨ht, hh, hdt, hst, hrenders, h0⟩ |
    ⟨hr, hrenders, h0⟩ | ⟨hr, htone, hdt, hst⟩
  · exact ⟨fun _ => .inl hreset, fun _ => .inl hreset, fun _ => .inl hreset⟩
  · exact ⟨absurd htone, absurd hdt, absurd hst⟩
  · exact ⟨fun _ => .inr ⟨ht, hh, hrenders, h0⟩, absurd hdt, absurd hst⟩
  · have ⟨ht, hh, _⟩ := hr
    exact ⟨fun _ => .inr ⟨ht, hh, hrenders, h0⟩, fun _ => .inr ⟨hr, .inr ⟨hrenders, h0⟩⟩,
      fun _ => .inr ⟨hr, .inr ⟨hrenders, h0⟩⟩⟩
  · exact ⟨absurd htone, fun hne => .inr ⟨hr, .inl (hdt hne)⟩, fun hne => .inr ⟨hr, .inl (hst hne)⟩⟩

end Sys2Proof.Proofs
end

section
/-! The host's `Reset(image)` event: the state it gives for an image that fits, and the refusal of a longer one
(70_reset_and_hazards R180, R182; 10_state R25). -/

namespace Sys2Proof.Laws

open Sys2Proof.Machine

/-! ## Memory after `Reset(image)` -/

/-- What memory reads as after storing bytes that end inside the address space: none of them wraps. -/
theorem memRead_memWriteBytes_of_fits {s : State} {a a' : Nat} {bs : List Byte} (hbs : a + bs.length ≤ memSize)
    (ha' : a' < memSize) :
    (s.memWriteBytes a bs).memRead a' = if a ≤ a' then bs.getD (a' - a) (s.memRead a') else s.memRead a' := by
  rw [memRead_memWriteBytes (by omega)]
  simp only [memSize] at hbs ha' ⊢
  split
  · next hle => rw [show (a' + 4096 - a % 4096) % 4096 = a' - a by omega]
  · exact List.getD_eq_default _ _ (by omega)

/-- The font stored over memory that lists nothing: its 80 bytes, and 0 above them (R25). -/
theorem memRead_font {s : State} (hs : s.mem = []) (font : Vector Byte 80) {a : Nat} (ha : a < memSize) :
    (s.memWriteBytes 0 font.toList).memRead a = if h : a < 80 then font[a] else 0 := by
  have hlen : font.toList.length = 80 := font.length_toList
  have hunlisted : s.memRead a = Memory.unlisted a := by
    rw [State.memRead, hs, Nat.mod_eq_of_lt ha, Memory.read]
  rw [memRead_memWriteBytes_of_fits (by rw [hlen]; decide) ha, if_pos (Nat.zero_le a), hunlisted, unlisted_eq]
  split
  · next h => rw [List.getD_eq_getElem _ _ (by omega)]; simp
  · next h => exact List.getD_eq_default _ _ (by omega)

/-- Memory after `Reset(image)`: the font below 0x050, the image from 0x200 on, 0 everywhere else (R25, R180). -/
theorem memRead_resetWith (s : State) {image : List Byte} (hfits : image.length ≤ Config.progMax) {a : Nat}
    (ha : a < memSize) :
    (s.resetWith image).memRead a =
      if h : a < 80 then s.params.font[a] else if 0x200 ≤ a then image.getD (a - 0x200) 0 else 0 := by
  have hend : 0x200 + image.length ≤ memSize := Nat.add_le_add_left hfits 0x200
  rw [State.resetWith, memRead_memWriteBytes_of_fits hend ha, memRead_font rfl _ ha]
  by_cases hfont : a < 80
  · rw [dif_pos hfont, if_neg (by omega), dif_pos hfont]
  · rw [dif_neg hfont, dif_neg hfont]

/-! ## The delivery of a `Reset` -/

theorem resetEvent_of_fits (s : State) {image : List Byte} (h : image.length ≤ Config.progMax) :
    resetEvent s image = .next (s.resetWith image) :=
  if_pos h

theorem resetEvent_of_too_long (s : State) {image : List Byte} (h : Config.progMax < image.length) :
    resetEvent s image = .refused (.imageTooLong image.length) :=
  if_neg (Nat.not_le.2 h)

/-- The step of a `Reset` between ticks: the event leaves the list and is answered by `resetEvent`. -/
theorem step_of_reset {s : State} {image : List Byte} {es : List HostEvent} (h0 : s.slot = 0)
    (he : s.events = .reset image :: es) : step s = resetEvent { s with events := es } image :=
  step_of_event h0 he

end Sys2Proof.Laws

namespace Sys2Proof.Proofs

open Sys2Proof.Machine Sys2Proof.Laws

/-! ## The rules of `Reset` -/

/-- Settles O13: but for memory the state is that of reset and the model's own fields (`resetWith_eq`), so the table of
R25 is O12's; memory is the font and then the image over it (`memRead_resetWith`). -/
theorem resetEventLoadsTheImage : Obligations.ResetEventLoadsTheImage := by
  intro s image es h0 he hfits
  obtain ⟨hpc, hsp, hi, hdt, hst, hpaused, hwait, hhalted, hcause, hfpc, hfop, htone, hreg, hstack, hkey, hpixel, -⟩ :=
    resetHoldsTheTableOfValues
  refine ⟨_, (step_of_reset h0 he).trans (resetEvent_of_fits _ hfits), ?_⟩
  have hmem (a : Addr12) := memRead_resetWith { s with events := es } hfits a.isLt
  rw [resetWith_eq]
  exact ⟨hpc, hsp, hi, hdt, hst, hpaused, hwait, hhalted, hcause, hfpc, hfop, htone, hreg, hstack, hkey, hpixel,
    hmem, rfl, rfl, rfl, rfl, rfl⟩

/-- Settles O14: the event is delivered, and the image does not fit (R182). -/
theorem oversizedImageIsRefused : Obligations.OversizedImageIsRefused := by
  intro s image es h0 he hlong
  rw [step_of_reset h0 he, resetEvent_of_too_long _ hlong]

end Sys2Proof.Proofs
end
